-- ==== Sys2Proof/Word.lean ====
section
/-! DEFINITION. The word types of the block: unsigned bytes, the 24-bit port word, and the level of the line
(spec 00_scope.md R13, 10_state.md R21, R32). -/

namespace Sys2Proof

/-- An 8-bit unsigned value: a channel intensity or the shift register (R13, R21). -/
abbrev Byte := BitVec 8

/-- The 24 bits of a pixel at the input port, `px_data` (R55, R86). -/
abbrev PxData := BitVec 24

/-- The level of the output line: `DOUT` is 1 bit, 0 = low, 1 = high (R32). -/
inductive Level
  | low
  | high
  deriving DecidableEq, Repr, Inhabited

/-- The three resolved channel intensities of one pixel, named in port order (R21: red, green, blue). -/
structure Pixel where
  r : Byte
  g : Byte
  b : Byte
  deriving DecidableEq, Repr, Inhabited

/-- What the pixel input port shows: (`px_valid`, `px_end`, `px_data`) (R92, R194). -/
structure PxWord where
  valid : Bool
  pend  : Bool
  data  : PxData
  deriving DecidableEq, Repr, Inhabited

/-- The answer of one pull `PixNext()` (R15, R92). -/
inductive Answer
  | some (p : Pixel)
  | none
  | notReady
  deriving DecidableEq, Repr

/-- The kind a `Tick` event carries (R186). -/
inductive TickKind
  | fired
  | failed
  deriving DecidableEq, Repr

end Sys2Proof
end

