-- ==== Sys2Proof/Syntax.lean ====
section
/-! DEFINITION. The operations of the block: one constructor for each of the fourteen rows of
spec/opcode_table.json (spec 30_encoding.md R101), the formats their words stand in (R80), and a word in a format. -/

namespace Sys2Proof

/-- The operations of the block (R101). Operands are what the row's word carries, bits that the block ignores
included, so that no bit of an encoding is dropped. -/
inductive Instr
  /-- `CONSTRUCT` (R170): CMD `1s`; `start` is the ignored bit `s` (R91). -/
  | construct (start : Bool)
  /-- `WRITE` (R140, R142): CMD `01`. Its operand, the pixel source, is handed over with the event and stands
  in the state (R142, R39). -/
  | write
  /-- `NOP` (R173): CMD `00`. -/
  | nop
  /-- `FETCH.SOME` (R143): PXR `10` with `px_data`. -/
  | fetchSome (data : PxData)
  /-- `FETCH.NONE` (R143): PXR `v1`; `valid` is the ignored bit `v` (R92, R94). -/
  | fetchNone (valid : Bool)
  /-- `FETCH.WAIT` (R157): PXR `00`. -/
  | fetchWait
  /-- `PIXEL (r, g, b)` (R145): PIXW. -/
  | pixel (r g b : Byte)
  /-- `BYTE v` (R130): BYTE8. -/
  | byte (v : Byte)
  /-- `BIT1.STD` (R111): SYM selector `01`. -/
  | bit1Std
  /-- `BIT0.STD` (R112): SYM selector `00`. -/
  | bit0Std
  /-- `BIT1.SLOW` (R113): SYM selector `11`. -/
  | bit1Slow
  /-- `BIT0.SLOW` (R114): SYM selector `10`. -/
  | bit0Slow
  /-- `LATCH` (R146): the latch field of FRAME. -/
  | latch
  /-- `TICK` (R141): TKR `te`, not `00` (R93). -/
  | tick (t e : Bool)
  deriving DecidableEq, Repr

/-- The formats of R80 in which a word can be presented. Which format a word stands in is which port it is
on (R194), and is not part of its bits. -/
inductive Format
  /-- `CMD`, the pair (`rst`, `start`), 2 bits (R91). -/
  | cmd
  /-- `PXR` with `px_data`: 2 + 24 bits (R92, R86). -/
  | pxr
  /-- `TKR`, the pair (`tick`, `tick_err`), 2 bits (R93). -/
  | tkr
  /-- `SYM`, the selector {`PROFILE`, `SH[7]`}, 2 bits (R101). -/
  | sym
  /-- `BYTE8`, one bit for each of 8 symbols (R84). -/
  | byte8
  /-- `PIXW`, one bit for each of 24 symbols (R85). -/
  | pixw
  /-- The latch field of `FRAME`, 900 slots (R87). -/
  | frame
  deriving DecidableEq, Repr

/-- A word on a port: its format and its bits, bit 0 the least significant (R13). -/
structure PortWord where
  fmt  : Format
  bits : Nat
  deriving DecidableEq, Repr

/-- Why a word is no word of its format: named reasons, all of them things no hardware port can show. -/
inductive DecodeError
  /-- More bits than the port has (R194 gives the widths). -/
  | tooWide (fmt : Format)
  /-- A latch field with a slot that is not low (R87: "900 slots in which the line is low"). -/
  | latchNotLow
  deriving DecidableEq, Repr

end Sys2Proof
end

