-- ==== Sys2Proof/WellFormed.lean ====
section
/-! DEFINITION. Which terms of `Instr` are operations. Every operand has the width of its field by its type; the
one check left is TKR's, whose word `00` is no tick (spec 30_encoding.md R93). -/

namespace Sys2Proof

/-- `TICK` is selected by {`tick`, `tick_err`} ≠ `00` (R93, R101); every other operand combination of the
table is a word of its row. -/
def Instr.wf : Instr → Bool
  | .construct _ => true
  | .write => true
  | .nop => true
  | .fetchSome _ => true
  | .fetchNone _ => true
  | .fetchWait => true
  | .pixel _ _ _ => true
  | .byte _ => true
  | .bit1Std => true
  | .bit0Std => true
  | .bit1Slow => true
  | .bit0Slow => true
  | .latch => true
  | .tick t e => t || e

end Sys2Proof
end

