-- ==== Sys2Proof/Decode.lean ====
section
/-! DEFINITION. The decoder, total on any bits of any format, and the encoder written from the same tables
(spec 30_encoding.md R80 to R101), with the layout of the pixel word (R55, R86). -/

namespace Sys2Proof

/-- How many bits a word of the format has (R84, R85, R87, R91 to R93, R101). -/
def Format.width : Format → Nat
  | .cmd => 2
  | .pxr => 26
  | .tkr => 2
  | .sym => 2
  | .byte8 => 8
  | .pixw => 24
  | .frame => 900

/-- `px_data[23:16] = r`, `px_data[15:8] = g`, `px_data[7:0] = b` (R55, R86). -/
def pixelOfData (d : PxData) : Pixel :=
  ⟨d.extractLsb' 16 8, d.extractLsb' 8 8, d.extractLsb' 0 8⟩

/-- `px_data = {r, g, b}` (R55). -/
def dataOfPixel (p : Pixel) : PxData := p.r ++ p.g ++ p.b

/-- The pixel port as one number: {`px_valid`, `px_end`} in bits 1 and 0, as the table numbers them, and
`px_data` above (log 7). -/
def pxWordOfBits (bits : Nat) : PxWord :=
  ⟨bits.testBit 1, bits.testBit 0, BitVec.ofNat 24 (bits / 4)⟩

/-- The inverse of `pxWordOfBits`. -/
def bitsOfPxWord (w : PxWord) : Nat :=
  w.data.toNat * 4 + w.valid.toNat * 2 + w.pend.toNat

/-- CMD: match/mask of R91: `CONSTRUCT` 10/10, `WRITE` 01/11, `NOP` 00/11. -/
def decodeCmd (bits : Nat) : Instr :=
  if bits.testBit 1 then .construct (bits.testBit 0)
  else if bits.testBit 0 then .write
  else .nop

/-- PXR: match/mask of R92: `Some` 10/11, `None` 01/01 (the reserved 11 included), `NotReady` 00/11. -/
def decodePxr (w : PxWord) : Instr :=
  if w.pend then .fetchNone w.valid
  else if w.valid then .fetchSome w.data
  else .fetchWait

/-- TKR (R93): a tick is {`tick`, `tick_err`} ≠ `00`; `00` is "not yet", no event, and so does nothing (R173). -/
def decodeTkr (bits : Nat) : Instr :=
  if bits.testBit 1 || bits.testBit 0 then .tick (bits.testBit 1) (bits.testBit 0) else .nop

/-- SYM: the selector {`PROFILE`, `SH[7]`} with STD = 0 and SLOW = 1 (R101). -/
def decodeSym (bits : Nat) : Instr :=
  match bits.testBit 1, bits.testBit 0 with
  | false, false => .bit0Std
  | false, true => .bit1Std
  | true, false => .bit0Slow
  | true, true => .bit1Slow

/-- What a number that is as narrow as its port is, format by format. -/
def decodeIn (fmt : Format) (bits : Nat) : Except DecodeError Instr :=
  match fmt with
  | .cmd => .ok (decodeCmd bits)
  | .pxr => .ok (decodePxr (pxWordOfBits bits))
  | .tkr => .ok (decodeTkr bits)
  | .sym => .ok (decodeSym bits)
  | .byte8 => .ok (.byte (BitVec.ofNat 8 bits))
  | .pixw => .ok (.pixel (BitVec.ofNat 8 (bits / 256)) (BitVec.ofNat 8 (bits / 65536)) (BitVec.ofNat 8 bits))
  | .frame => if bits = 0 then .ok .latch else .error .latchNotLow

/-- The decoder: every number in every format is an operation or is rejected by name. A number with a bit above
its port's width is no word (log 15). -/
def decode (w : PortWord) : Except DecodeError Instr :=
  if w.bits >>> w.fmt.width ≠ 0 then .error (.tooWide w.fmt) else decodeIn w.fmt w.bits

/-- The word of an operation, from the same tables; bits the block ignores are as the operand says, and
`px_data` is 0 where it is not an operand (R92: ignored). -/
def encode : Instr → PortWord
  | .construct s => ⟨.cmd, 2 + s.toNat⟩
  | .write => ⟨.cmd, 1⟩
  | .nop => ⟨.cmd, 0⟩
  | .fetchSome d => ⟨.pxr, bitsOfPxWord ⟨true, false, d⟩⟩
  | .fetchNone v => ⟨.pxr, bitsOfPxWord ⟨v, true, 0⟩⟩
  | .fetchWait => ⟨.pxr, bitsOfPxWord ⟨false, false, 0⟩⟩
  | .pixel r g b => ⟨.pixw, g.toNat * 65536 + r.toNat * 256 + b.toNat⟩
  | .byte v => ⟨.byte8, v.toNat⟩
  | .bit1Std => ⟨.sym, 1⟩
  | .bit0Std => ⟨.sym, 0⟩
  | .bit1Slow => ⟨.sym, 3⟩
  | .bit0Slow => ⟨.sym, 2⟩
  | .latch => ⟨.frame, 0⟩
  | .tick t e => ⟨.tkr, t.toNat * 2 + e.toNat⟩

/-- The format in which a bare table word is read: the table's formats share the two-bit words, so those are
read on the host's port, where a machine fresh from reset takes its commands; the words that only one format
of their size admits are read in that format (log 6). -/
def tableFormat (nbits w : Nat) : Format :=
  if nbits ≤ 8 then (if w < 4 then .cmd else .byte8)
  else if nbits ≤ 24 then .pixw
  else if nbits ≤ 32 then .pxr
  else .frame

/-- What the decoder reads from a table word of `nbits` bits (log 6). -/
def decodeTableWord (nbits w : Nat) : Option Instr :=
  match decode ⟨tableFormat nbits w, w⟩ with
  | .ok i => some i
  | .error _ => none

end Sys2Proof
end

