-- ==== Sys2Proof/Config.lean ====
section
/-! DEFINITION. What is fixed for the block: the named constants of spec 00_scope.md R11, the timing profile
as a type (R12), and the free values, constants without a body that stand for what the spec leaves unspecified. -/

namespace Sys2Proof

/-- `PROFILE`: which of the two bit-timing tables the build uses; "mutually exclusive, chosen at build time"
(R11, R12). It is an argument of the step relation, never a register of the block. -/
inductive Profile
  | std
  | slow
  deriving DecidableEq, Repr, Inhabited

namespace Config

/-- `TICKS_PER_BIT` (R11). -/
def ticksPerBit : Nat := 3
/-- `T1H_STD` (R11): ticks high for a logical 1, standard profile. -/
def t1hStd : Nat := 2
/-- `T1L_STD` (R11). -/
def t1lStd : Nat := 1
/-- `T0H_STD` (R11): ticks high for a logical 0, standard profile. -/
def t0hStd : Nat := 1
/-- `T0L_STD` (R11). -/
def t0lStd : Nat := 2
/-- `T1H_SLOW` (R11, decision D9). -/
def t1hSlow : Nat := 2
/-- `T0H_SLOW` (R11, decision D9): no whole tick, a pulse inside one slot. -/
def t0hSlow : Nat := 0
/-- `BITS_PER_BYTE` (R11). -/
def bitsPerByte : Nat := 8
/-- `BYTES_PER_PIXEL` (R11). -/
def bytesPerPixel : Nat := 3
/-- `TICKS_PER_BYTE` = 8 × 3 (R11). -/
def ticksPerByte : Nat := bitsPerByte * ticksPerBit
/-- `TICKS_PER_PIXEL` = 24 × 3 (R11). -/
def ticksPerPixel : Nat := bytesPerPixel * ticksPerByte
/-- `LATCH_TICKS` (R11): ticks waited with the line low after the last pixel. -/
def latchTicks : Nat := 900
/-- `F_TICK`, nominal, in hertz (R11, R191): a precondition on the environment that no rule reads. -/
def tickRateHz : Nat := 3000000

/-- The default build's profile (R11: `STD` (default)). -/
def defaultProfile : Profile := .std

/-- Free bytes: what a datapath register holds where the spec says "unspecified" (R170, R41; log 3). -/
opaque freeByte : Nat → Byte
/-- Free `CHAN` (R170; log 3). -/
opaque freeChan : Nat → Fin 3
/-- Free `BITIDX` (R170; log 3). -/
opaque freeBitIdx : Nat → Fin 8
/-- Free `PHASE` (R170; log 3). -/
opaque freePhase : Nat → Fin 3
/-- Free `LATCH_CNT` (R170; log 3). -/
opaque freeLatchCnt : Nat → Fin 901

/-- One half of the OPEN parameter `SLOW_PULSE` (R11, R230, decision D10; log 13). -/
opaque slowPulseOn : Nat
/-- The other half of the OPEN parameter `SLOW_PULSE` (log 13). -/
opaque slowPulseOff : Nat

/-- `SLOW_PULSE` as a fraction of one tick period, numerator and denominator: any rational strictly between
0 and 1 is of this form (R11: `0 < SLOW_PULSE < 1 tick period`). No tick-level rule depends on it (R230). -/
def slowPulse : Nat × Nat := (slowPulseOn + 1, slowPulseOn + 1 + (slowPulseOff + 1))

end Config
end Sys2Proof
end

