-- ==== Sys2Proof/Machine/State.lean ====
section
/-! DEFINITION. Everything the spec gives the machine, as plain data: the block's own state (spec 10_state.md R20),
and beside it, in records of their own because the spec says they are not state of the block (R43), the build
parameters and the inputs of a run. -/

namespace Sys2Proof
namespace Machine

/-- `MODE` (R26). -/
inductive Mode
  | idle
  | fetch
  | shift
  | latch
  deriving DecidableEq, Repr, Inhabited

/-- The output alphabet of the step relation (R10, R15). -/
inductive Output
  /-- `Pin(l)`: the line is driven to `l`. -/
  | pin (l : Level)
  /-- `Take`: the presented pixel has been captured. -/
  | take
  /-- `Done`: the frame is complete, always success (R156). -/
  | done
  deriving DecidableEq, Repr

/-- All input ports as they stand in one clock cycle (R194), for the binding of R188. -/
structure PortSample where
  rst     : Bool
  start   : Bool
  tick    : Bool
  tickErr : Bool
  px      : PxWord
  deriving DecidableEq, Repr

/-- An input event of a run, in the alphabet of R10. -/
inductive Input
  /-- A word on a port. `src` is the pixel source the host hands over with it (R142: "supplied with `Start`"). -/
  | word (w : PortWord) (src : List PxWord)
  /-- The internal event `Poll` (R10, R157). -/
  | poll
  /-- All ports of one clock cycle at once (R188). -/
  | cycle (c : PortSample)
  deriving DecidableEq, Repr

/-- The parameters of the step relation (R11, R12, R43): fixed for a build, written by nothing, and no field of the
block or of `Body`, the state that the step function `stepOf` acts on (log 1). `HAS_DIAG` is not repeated here: it is
whether `Block.diagErr` is present (R37). -/
structure Build where
  /-- `PROFILE` (R12). -/
  profile : Profile
  deriving DecidableEq, Repr

/-- The inputs of a run (R39, R40, R43): what the environment will do, as lists that the step reads (log 5, log 8). -/
structure Env where
  /-- The events still to come, first to arrive first (R40). -/
  inputs : List Input
  /-- The pixel source on offer with the command now on the host port (R142). -/
  offer  : List PxWord
  /-- What the current frame's source has still to answer (R39). An exhausted source answers `None` (R51). -/
  source : List PxWord
  /-- The kinds of the ticks that will answer the tick-waits `W` of composed operations (R16, R186). -/
  waits  : List TickKind
  deriving DecidableEq, Repr

/-- The complete state of the block (R20). -/
structure Block where
  /-- `x[0]` = `R` (R21). -/
  r : Byte
  /-- `x[1]` = `G` (R21). -/
  g : Byte
  /-- `x[2]` = `B` (R21). -/
  b : Byte
  /-- `x[3]` = `SH` (R23). -/
  sh : Byte
  /-- `MODE` (R26). -/
  mode : Mode
  /-- `CHAN` (R27): 3 has no meaning and is unrepresentable (R31). -/
  chan : Fin 3
  /-- `BITIDX` (R28). -/
  bitIdx : Fin 8
  /-- `PHASE` (R29): 3 has no meaning and is unrepresentable (R31). -/
  phase : Fin 3
  /-- `LATCH_CNT` (R30): more than 900 has no meaning and is unrepresentable (R31). -/
  latchCnt : Fin 901
  /-- `DOUT`, the commanded level (R32). -/
  dout : Level
  /-- `DIAG_ERR`, present exactly in a build with `HAS_DIAG` (R37; log 10). -/
  diagErr : Option Nat
  /-- `TICKS`, ghost (R33). -/
  ticks : Nat
  /-- `LOG`, ghost (R34). -/
  log : List (Level × Nat)
  deriving DecidableEq, Repr

/-- The model's own recording fields. -/
structure Rec where
  /-- Every output so far; what a step appends is the step's output list (R15; log 11). -/
  outs : List Output
  /-- The counter that makes the free values of two resets independent (log 3). -/
  freeCtr : Nat
  deriving DecidableEq, Repr

/-- The state proper, without any parameter of the build (R12, R43): the inputs of the run, the block, and the
record of its outputs. `stepOf` (Step.lean) is the step function over it, with `PROFILE` as its parameter. -/
structure Body where
  env : Env
  blk : Block
  obs : Rec
  deriving DecidableEq, Repr

/-- The state proper together with the build whose step acts on it. The host's interface gives `exec` and `step` one
argument, so the build is handed to them beside the state (DESIGN CHOICE, log 1). -/
structure State extends Body where
  build : Build
  deriving DecidableEq, Repr

/-- There is no fault: "A model must not add a fault state" (R185, R180, R189). The type is empty, so `step`
cannot answer a fault. Safe: nothing is claimed of a fault. -/
inductive Fault
  deriving DecidableEq, Repr

/-- Why a step has no meaning. -/
inductive Refusal
  /-- Raised by `exec` for an operation whose meaning is not written yet. Safe: the run stops. No arm raises it. -/
  | notModelled (mnemonic : String)
  /-- Raised by `step` for an input that is no word of its format: a number with more bits than its port has, or
  a latch field that is not low. No hardware port can show one (log 15). Safe: the run stops where no hardware is. -/
  | badWord (e : DecodeError)
  deriving DecidableEq, Repr

/-- The state proper right after reset (R41, R211), in every build without `HAS_DIAG`: line low, `MODE = IDLE`,
ghosts cleared. The registers R41 leaves unspecified hold 0 (DESIGN CHOICE, log 2); the run's inputs are empty
(DESIGN CHOICE, log 5): with none the block "stays idle for ever" (R211). -/
def Body.reset : Body :=
  { env := { inputs := [], offer := [], source := [], waits := [] }
    blk :=
      { r := 0, g := 0, b := 0, sh := 0
        mode := .idle, chan := 0, bitIdx := 0, phase := 0, latchCnt := 0
        dout := .low, diagErr := none, ticks := 0, log := [] }
    obs := { outs := [], freeCtr := 0 } }

/-- The machine of the given profile right after reset. `PROFILE` "has no reset value because it is not state" (R36). -/
def State.resetOf (p : Profile) : State := { Body.reset with build := { profile := p } }

/-- The machine right after reset, in the default build (R11; log 18). -/
def State.reset : State := State.resetOf Config.defaultProfile

end Machine
end Sys2Proof
end

