-- ==== Sys2Proof/Machine/Operands.lean ====
section
/-! DEFINITION. How operands are assembled: datapath registers by number (spec 10_state.md R21), the channel
multiplexer (30_encoding.md R89), the bit being sent (R90), the answer of a pull from the port (R92), the kind of a
tick from the port (R93). -/

namespace Sys2Proof
namespace Machine

/-- `x[i]` (R14, R21): 0 = red, 1 = green, 2 = blue, 3 = the shift register. -/
def Block.x (b : Block) (i : Fin 4) : Byte :=
  if i = 0 then b.r else if i = 1 then b.g else if i = 2 then b.b else b.sh

/-- `sel`: from wire order to register number, `sel(0) = 1`, `sel(1) = 0`, `sel(2) = 2` (R89). -/
def sel (c : Fin 3) : Fin 4 :=
  if c = 0 then 1 else if c = 1 then 0 else 2

/-- The byte sent at wire position `c` (R89): taken whole and unmodified. -/
def channelByte (b : Block) (c : Fin 3) : Byte := b.x (sel c)

/-- `shl8(v)`: left shift by one with zero fill (R13, R133). -/
def shl8 (v : Byte) : Byte := v <<< 1

/-- The bit being sent, `SH[7]` (R23, R90). -/
def bitOut (b : Block) : Bool := b.sh.getLsbD 7

/-- The answer the pixel port shows (R92): `None` wherever `px_end` is 1. -/
def answerOf (w : PxWord) : Answer :=
  if w.pend then .none
  else if w.valid then .some (pixelOfData w.data)
  else .notReady

/-- `PixNext()` (R15): the answer and what is left of the source. An exhausted source answers `None` (R51, R98). -/
def pixNext : List PxWord → Answer × List PxWord
  | [] => (.none, [])
  | w :: ws => (answerOf w, ws)

/-- The tick a word on (`tick`, `tick_err`) is: `10` fired, `01` and `11` failed, `00` none (R93). -/
def tickKindOf (t e : Bool) : Option TickKind :=
  if e then some .failed else if t then some .fired else none

/-- The word by which a source presents a pixel: `px_valid`, and the pixel as `px_data` (R55, R92). -/
def pxSome (p : Pixel) : PxWord := ⟨true, false, dataOfPixel p⟩

/-- The word of a source that has no more pixels (R92). -/
def pxNone : PxWord := ⟨false, true, 0⟩

/-- The word of a source that has no answer yet (R92). -/
def pxWait : PxWord := ⟨false, false, 0⟩

end Machine
end Sys2Proof
end

