-- ==== Sys2Proof/Machine/Flags.lean ====
section
/-! DEFINITION. The block's one status flag and the other values computed from its state: `BUSY` (spec 10_state.md
R35), the codes of `MODE` (R26), whether the line is in the high part of a symbol (40_bit_encoder.md R119), the
diagnostic read (43_host_operations.md R175). There are no condition codes (R35). -/

namespace Sys2Proof
namespace Machine

/-- `BUSY = (MODE ≠ IDLE)` (R35). -/
def busy (s : State) : Bool := decide (s.blk.mode ≠ .idle)

/-- The numeric encoding of `MODE`, 2 bits (R26). Nothing outside the block observes it. -/
def Mode.code : Mode → BitVec 2
  | .idle => 0
  | .fetch => 1
  | .shift => 2
  | .latch => 3

/-- `DOUT` as the bit it is (R32: 0 = low, 1 = high). -/
def levelBit : Level → Bool
  | .low => false
  | .high => true

/-- `HighPart` (R119): with `MODE = SHIFT`, the line is high between steps exactly here. -/
def highPart (p : Profile) (b : Block) : Bool :=
  (decide (b.phase = 1) && !(decide (p = .slow) && !bitOut b)) || (decide (b.phase = 2) && bitOut b)

/-- `HAS_DIAG` (R37): the optional counter is present. -/
def hasDiag (s : State) : Bool := s.blk.diagErr.isSome

/-- The host's read of `DIAG_ERR` (R175): no side effect; absent, the operation does not exist. -/
def readDiag (s : State) : Option Nat := s.blk.diagErr

/-- One failed tick more where the counter exists (R37, R186). -/
def countFailed (k : TickKind) (d : Option Nat) : Option Nat :=
  match k with
  | .fired => d
  | .failed => d.map (· + 1)

end Machine
end Sys2Proof
end

