-- ==== Sys2Proof/Machine/Ops.lean ====
section
/-! DEFINITION. The shared operations of the block, each the pseudocode of its rule: the primitives of spec
00_scope.md R15, the step pieces `Fetch` (42_frame_encoder.md R143), `ByteDone` (R144), `BitDone`
(41_byte_encoder.md R131), `BitStep` (40_bit_encoder.md R115), `LatchStep` (R146), `Tick` (R141), `Start` (R142),
`Poll` (R157), `Reset` (43_host_operations.md R170), and a run of ticks. There is no exception to take and none to
return from (60_exceptions.md R180, R189, R196), so no operation does either. -/

namespace Sys2Proof
namespace Machine

/-- `emit` (R15): one output event more. -/
def emit (o : Output) (s : State) : State :=
  { s with obs := { s.obs with outs := s.obs.outs ++ [o] } }

/-- `Pin(l)` inside a frame (R15): the line, one entry `(l, TICKS - 1)` in `LOG` (R34), one output. -/
def pin (l : Level) (s : State) : State :=
  emit (.pin l) { s with blk := { s.blk with dout := l, log := s.blk.log ++ [(l, s.blk.ticks - 1)] } }

/-- A tick is consumed (R33, R141): `TICKS` counts it, and `DIAG_ERR`, where present, counts a failed one (R37, R186). -/
def consumeTick (k : TickKind) (s : State) : State :=
  { s with blk := { s.blk with ticks := s.blk.ticks + 1, diagErr := countFailed k s.blk.diagErr } }

/-- What `Fetch` does with an answer (R143). -/
def applyAnswer (a : Answer) (s : State) : State :=
  match a with
  | .some p =>
    emit .take
      { s with blk := { s.blk with
          r := p.r, g := p.g, b := p.b, sh := p.g
          chan := 0, bitIdx := 0, phase := 0, mode := .shift } }
  | .none => { s with blk := { s.blk with latchCnt := Fin.ofNat 901 Config.latchTicks, mode := .latch } }
  | .notReady => s

/-- `Fetch` (R143): pull once, then act on the answer. A pull takes one answer from the source (R39, R61). -/
def fetch (s : State) : State :=
  applyAnswer (pixNext s.env.source).1 { s with env := { s.env with source := (pixNext s.env.source).2 } }

/-- `ByteDone` (R144): the channel multiplexer, or the next pull after the third byte. -/
def byteDone (s : State) : State :=
  if s.blk.chan.val < 2 then
    { s with blk := { s.blk with chan := s.blk.chan + 1, sh := channelByte s.blk (s.blk.chan + 1) } }
  else
    fetch { s with blk := { s.blk with chan := 0, mode := .fetch } }

/-- `BitDone` (R131): shift, then count the bit; the load of a new byte comes after the shift and wins. -/
def bitDone (s : State) : State :=
  if s.blk.bitIdx.val < 7 then
    { s with blk := { s.blk with sh := shl8 s.blk.sh, bitIdx := s.blk.bitIdx + 1 } }
  else
    byteDone { s with blk := { s.blk with sh := shl8 s.blk.sh, bitIdx := 0 } }

/-- `Pin(0)` where the condition holds. -/
def pinLowIf (c : Bool) (s : State) : State := if c then pin .low s else s

/-- `BitStep` (R115), for the table `p`: consume the tick, act by `PHASE`, hand over after the third tick (R120). -/
def bitStep (p : Profile) (k : TickKind) (s : State) : State :=
  let v := bitOut s.blk
  let t := consumeTick k s
  if s.blk.phase = 0 then
    let u := pinLowIf (decide (p = .slow) && !v) (pin .high t)
    { u with blk := { u.blk with phase := 1 } }
  else if s.blk.phase = 1 then
    let u := pinLowIf (decide (p = .std) && !v) t
    { u with blk := { u.blk with phase := 2 } }
  else
    let u := pinLowIf v t
    bitDone { u with blk := { u.blk with phase := 0 } }

/-- `LATCH_CNT - 1`; never taken at 0 (R158). -/
def predLatch (c : Fin 901) : Fin 901 := ⟨c.val - 1, by omega⟩

/-- `LatchStep` (R146). `MODE = LATCH` with `LATCH_CNT = 0` is unreachable (R30, R31) and is no row of R148's
table, whose unlisted rows are "no change" (log 9). -/
def latchStep (k : TickKind) (s : State) : State :=
  if s.blk.latchCnt.val = 0 then s
  else
    let t := consumeTick k s
    let u := { t with blk := { t.blk with latchCnt := predLatch s.blk.latchCnt } }
    if (predLatch s.blk.latchCnt).val = 0 then
      emit .done { u with blk := { u.blk with mode := .idle } }
    else u

/-- `Tick` (R141): consumed in SHIFT and LATCH, lost in IDLE and FETCH. `PROFILE` is an argument (R12), handed on to
`BitStep`; no shared operation looks for it in the state. -/
def tickStep (p : Profile) (k : TickKind) (s : State) : State :=
  match s.blk.mode with
  | .idle => s
  | .fetch => s
  | .shift => bitStep p k s
  | .latch => latchStep k s

/-- `Start` (R142): accepted in IDLE only, with the source on offer; the first pull is in the same step. -/
def startStep (s : State) : State :=
  if s.blk.mode = .idle then
    fetch { s with
      env := { s.env with source := s.env.offer, offer := [] }
      blk := { s.blk with ticks := 0, log := [], mode := .fetch } }
  else s

/-- The answer of the source arriving while the block pulls; outside FETCH the port is not sampled (R94, R173). It is
the answer that is acted on, and `env.source` is not advanced: a `Poll` takes its answer from the source in `nextWord`,
whereas an answer given as an event of its own stands beside the frame's source list (DESIGN CHOICE, log 21). -/
def answerStep (a : Answer) (s : State) : State :=
  if s.blk.mode = .fetch then applyAnswer a s else s

/-- `Poll` (R157): in FETCH the pull is made again; elsewhere the event does not exist (R148). -/
def pollStep (s : State) : State :=
  if s.blk.mode = .fetch then fetch s else s

/-- `Reset` (R170), from any state: a `Pin(0)` that is not entered in `LOG`, IDLE, the ghosts cleared, and every
register R170 calls unspecified at a free value (log 3). The source is left wherever it was (R171). -/
def resetStep (s : State) : State :=
  { s with
    blk :=
      { r := Config.freeByte s.obs.freeCtr
        g := Config.freeByte (s.obs.freeCtr + 1)
        b := Config.freeByte (s.obs.freeCtr + 2)
        sh := Config.freeByte (s.obs.freeCtr + 3)
        mode := .idle
        chan := Config.freeChan s.obs.freeCtr
        bitIdx := Config.freeBitIdx s.obs.freeCtr
        phase := Config.freePhase s.obs.freeCtr
        latchCnt := Config.freeLatchCnt s.obs.freeCtr
        dout := .low
        diagErr := s.blk.diagErr.map fun _ => 0
        ticks := 0
        log := [] }
    obs := { outs := s.obs.outs ++ [.pin .low], freeCtr := s.obs.freeCtr + 4 } }

/-- `n` tick-waits answered in turn by the timer (R16: `W` blocks until a tick arrives and consumes one). Where no
more ticks come the block waits where it stands (R189; log 8). -/
def runTicks (p : Profile) : Nat → State → State
  | 0, s => s
  | n + 1, s =>
    match s.env.waits with
    | [] => s
    | k :: ks => runTicks p n (tickStep p k { s with env := { s.env with waits := ks } })

/-- The pixel port shows `w` for the whole of this cycle: whatever pull the cycle makes sees it, the first pull of
a frame included (R188). -/
def present (w : PxWord) (s : State) : State :=
  { s with env := { s.env with source := [w], offer := [w] } }

/-- The clocked binding (R188, decision D13): `rst` alone; otherwise `Tick`, then `Start`, then `Poll`, every pull
seeing the pixel port of the same cycle. -/
def clockCycle (p : Profile) (c : PortSample) (s : State) : State :=
  if c.rst then resetStep s
  else
    let s₁ := match tickKindOf c.tick c.tickErr with
      | some k => tickStep p k (present c.px s)
      | none => s
    let s₂ := if c.start then startStep (present c.px s₁) else s₁
    pollStep (present c.px s₂)

/-- The word of the answer the source gives to a `Poll`: what it presents, or its end (R39, R92). -/
def pollWord (src : List PxWord) : PortWord :=
  match src with
  | [] => ⟨.pxr, bitsOfPxWord pxNone⟩
  | w :: _ => ⟨.pxr, bitsOfPxWord w⟩

/-- The word the next event presents, and the state in which it is executed. With no event there is no command
(R91: `00`), and so it is for a `Poll` outside FETCH (R148). A `Poll` in FETCH presents the source's next
answer and takes it from the source. A word of the pixel port that is an event of its own is executed as it stands,
and the source list is left as it is: R10 has only `Poll` for it (DESIGN CHOICE, log 21). -/
def nextWord (s : State) : PortWord × State :=
  match s.env.inputs with
  | [] => (⟨.cmd, 0⟩, s)
  | .word w src :: rest => (w, { s with env := { s.env with inputs := rest, offer := src } })
  | .poll :: rest =>
    if s.blk.mode = .fetch then
      (pollWord s.env.source, { s with env := { s.env with inputs := rest, source := (pixNext s.env.source).2 } })
    else (⟨.cmd, 0⟩, { s with env := { s.env with inputs := rest } })
  | .cycle _ :: rest => (⟨.cmd, 0⟩, { s with env := { s.env with inputs := rest } })

end Machine
end Sys2Proof
end

