-- ==== Sys2Proof/Machine/Composed.lean ====
section
/-! DEFINITION. The meanings of the composed wire operations BYTE, PIXEL and LATCH (spec 41_byte_encoder.md R130,
42_frame_encoder.md R145, R146): the step rules over the operation's ticks (R16: "the step rules win"), when the
block stands at the start of that operation. -/

namespace Sys2Proof
namespace Machine

/-- The block is about to send the byte `v`: at the first tick of a byte, with `v` in `SH` (R130). -/
def byteReady (v : Byte) (s : State) : Bool :=
  decide (s.blk.mode = .shift) && decide (s.blk.phase = 0) && decide (s.blk.bitIdx = 0) && decide (s.blk.sh = v)

/-- The block is about to send the pixel `(r, g, b)`: at the first tick of a pixel, the channels in `x[0..2]` and
the green byte in `SH` (R145, R143). -/
def pixelReady (r g b : Byte) (s : State) : Bool :=
  byteReady g s && decide (s.blk.chan = 0) && decide (s.blk.r = r) && decide (s.blk.g = g) && decide (s.blk.b = b)

/-- The block is about to wait out the latch interval (R146). -/
def latchReady (s : State) : Bool :=
  decide (s.blk.mode = .latch) && decide (s.blk.latchCnt.val = Config.latchTicks)

/-- `BYTE v` (R130): 24 ticks. -/
def execByte (v : Byte) (s : State) : Host.Outcome State Fault Refusal :=
  .next (if byteReady v s then runTicks s.build.profile Config.ticksPerByte s else s)

/-- `PIXEL (r, g, b)` (R145): 72 ticks. -/
def execPixel (r g b : Byte) (s : State) : Host.Outcome State Fault Refusal :=
  .next (if pixelReady r g b s then runTicks s.build.profile Config.ticksPerPixel s else s)

/-- `LATCH` (R146): 900 ticks. -/
def execLatch (s : State) : Host.Outcome State Fault Refusal :=
  .next (if latchReady s then runTicks s.build.profile Config.latchTicks s else s)

end Machine
end Sys2Proof
end

