-- ==== Sys2Proof/Machine/Fetch.lean ====
section
/-! DEFINITION. The meanings of the three answers of the pixel source: FETCH.SOME, FETCH.NONE, FETCH.WAIT (spec
42_frame_encoder.md R143, R157; 30_encoding.md R92). What the source has still to give is moved on by whoever takes the
answer from it (`nextWord`, for a `Poll`), not here (DESIGN CHOICE, log 21). -/

namespace Sys2Proof
namespace Machine

/-- `FETCH.SOME` (R143): the pixel on `px_data` is captured and `Take` emitted, in FETCH. -/
def execFetchSome (data : PxData) (s : State) : Host.Outcome State Fault Refusal :=
  .next (answerStep (.some (pixelOfData data)) s)

/-- `FETCH.NONE` (R143): the latch begins, in FETCH; `px_valid` is ignored (R92: the reserved `11` is `None`). -/
def execFetchNone (_valid : Bool) (s : State) : Host.Outcome State Fault Refusal :=
  .next (answerStep .none s)

/-- `FETCH.WAIT` (R157): the source is not ready and the block stays in FETCH. -/
def execFetchWait (s : State) : Host.Outcome State Fault Refusal :=
  .next (answerStep .notReady s)

end Machine
end Sys2Proof
end

