-- ==== Sys2Proof/Machine/HostOps.lean ====
section
/-! DEFINITION. The meanings of the host commands CONSTRUCT, WRITE and NOP (spec 43_host_operations.md R170, R173;
42_frame_encoder.md R140, R142). -/

namespace Sys2Proof
namespace Machine

/-- `CONSTRUCT` (R170): from any state; the `start` bit beside `rst` is ignored (R91, R188). -/
def execConstruct (_start : Bool) (s : State) : Host.Outcome State Fault Refusal :=
  .next (resetStep s)

/-- `WRITE` (R140): the `Start` step of R142, which begins the frame in IDLE and is dropped elsewhere (R94). The
frame then goes on with the ticks, by R141. -/
def execWrite (s : State) : Host.Outcome State Fault Refusal :=
  .next (startStep s)

/-- `NOP` (R173): "leave the whole state unchanged and produce no output". -/
def execNop (s : State) : Host.Outcome State Fault Refusal :=
  .next s

end Machine
end Sys2Proof
end

