-- ==== Sys2Proof/Machine/Symbols.lean ====
section
/-! DEFINITION. The meanings of the four symbols BIT1.STD, BIT0.STD, BIT1.SLOW, BIT0.SLOW (spec 40_bit_encoder.md
R111 to R114): `BitStep` over the symbol's three ticks, when the block stands at the start of that symbol. -/

namespace Sys2Proof
namespace Machine

/-- The block is about to send this symbol: `MODE = SHIFT`, `PHASE = 0`, and the selector {`PROFILE`, `SH[7]`} is
the symbol's (R101, R110). -/
def symbolReady (p : Profile) (v : Bool) (s : State) : Bool :=
  decide (s.blk.mode = .shift) && decide (s.blk.phase = 0) && decide (s.build.profile = p) && decide (bitOut s.blk = v)

/-- The three ticks of the symbol; a symbol that is not the selected one is not sent (log 8). -/
def symbol (p : Profile) (v : Bool) (s : State) : State :=
  if symbolReady p v s then runTicks p Config.ticksPerBit s else s

/-- `BIT1.STD` (R111). -/
def execBit1Std (s : State) : Host.Outcome State Fault Refusal := .next (symbol .std true s)

/-- `BIT0.STD` (R112). -/
def execBit0Std (s : State) : Host.Outcome State Fault Refusal := .next (symbol .std false s)

/-- `BIT1.SLOW` (R113, decision D9; log 12). -/
def execBit1Slow (s : State) : Host.Outcome State Fault Refusal := .next (symbol .slow true s)

/-- `BIT0.SLOW` (R114, decision D9; log 12). -/
def execBit0Slow (s : State) : Host.Outcome State Fault Refusal := .next (symbol .slow false s)

end Machine
end Sys2Proof
end

