-- ==== Sys2Proof/Machine/Tick.lean ====
section
/-! DEFINITION. The meaning of TICK (spec 42_frame_encoder.md R141, 60_exceptions.md R181, R186). -/

namespace Sys2Proof
namespace Machine

/-- `TICK` (R141): one tick of the kind the pair (`tick`, `tick_err`) shows (R93); the pair `00`, which is no
`TICK`, is no event (R182). -/
def execTick (t e : Bool) (s : State) : Host.Outcome State Fault Refusal :=
  .next (match tickKindOf t e with
    | some k => tickStep s.build.profile k s
    | none => s)

end Machine
end Sys2Proof
end

