-- ==== Sys2Proof/Machine/Dispatch.lean ====
section
/-! DEFINITION. One arm per operation of the table (spec 30_encoding.md R101). -/

namespace Sys2Proof
namespace Machine

def exec (i : Instr) (s : State) : Host.Outcome State Fault Refusal :=
  match i with
  | .construct start => Sys2Proof.Machine.execConstruct start s
  | .write => Sys2Proof.Machine.execWrite s
  | .nop => Sys2Proof.Machine.execNop s
  | .fetchSome data => Sys2Proof.Machine.execFetchSome data s
  | .fetchNone valid => Sys2Proof.Machine.execFetchNone valid s
  | .fetchWait => Sys2Proof.Machine.execFetchWait s
  | .pixel r g b => Sys2Proof.Machine.execPixel r g b s
  | .byte v => Sys2Proof.Machine.execByte v s
  | .bit1Std => Sys2Proof.Machine.execBit1Std s
  | .bit0Std => Sys2Proof.Machine.execBit0Std s
  | .bit1Slow => Sys2Proof.Machine.execBit1Slow s
  | .bit0Slow => Sys2Proof.Machine.execBit0Slow s
  | .latch => Sys2Proof.Machine.execLatch s
  | .tick t e => Sys2Proof.Machine.execTick t e s

end Machine
end Sys2Proof
end

