-- ==== Sys2Proof/Machine/Step.lean ====
section
/-! DEFINITION. One step: the next input event is read, decoded and executed (spec 00_scope.md R9, R10). -/

namespace Sys2Proof
namespace Machine

/-- The state proper in the build whose profile is `p`. -/
def Body.under (p : Profile) (b : Body) : State := { b with build := { profile := p } }

/-- What is left of an outcome when the build is not looked at. -/
def bodyOutcome : Host.Outcome State Fault Refusal → Host.Outcome Body Fault Refusal
  | .next t => .next t.toBody
  | .fault r => .fault r
  | .refused r => .refused r

/-- The step function, with `PROFILE` as its parameter and over a state that does not hold it (R12, R43). A clock
cycle's inputs go through the binding of R188; every other event presents one word (`nextWord`), which is decoded
and executed. With no event left the step changes nothing: the block waits (R189, R211). -/
def stepOf (p : Profile) (b : Body) : Host.Outcome Body Fault Refusal :=
  match b.env.inputs with
  | .cycle c :: _ => bodyOutcome (.next (clockCycle p c (nextWord (b.under p)).2))
  | _ =>
    match decode (nextWord (b.under p)).1 with
    | .ok i => bodyOutcome (exec i (nextWord (b.under p)).2)
    | .error e => .refused (.badWord e)

/-- One step of the machine, as the host's interface takes it: `stepOf` with the build's profile as its argument.
The build itself is handed through, and nothing a step does can write it (R12; log 1). -/
def step (s : State) : Host.Outcome State Fault Refusal :=
  match stepOf s.build.profile s.toBody with
  | .next b => .next { b with build := s.build }
  | .fault r => .fault r
  | .refused r => .refused r

/-- `s` with the table word `w` as its next input event, read in `tableFormat` (log 6). A `WRITE` placed so comes
with the empty source. -/
def State.withFetchWord (s : State) (nbits w : Nat) : State :=
  { s with env := { s.env with inputs := .word ⟨tableFormat nbits w, w⟩ [] :: s.env.inputs } }

end Machine
end Sys2Proof
end

