-- ==== Sys2Proof/Machine/Wire.lean ====
section
/-! DEFINITION. What the line shows: micro-operation strings (spec 00_scope.md R16, 30_encoding.md R100), waveforms
slot by slot (R17, R81 to R87), the closed forms of `LOG` (40_bit_encoder.md R119, 41_byte_encoder.md R134,
42_frame_encoder.md R154), and the reading back of a log (30_encoding.md R97). -/

namespace Sys2Proof
namespace Machine

/-! ### Micro-operations -/

/-- The one-letter micro-operations `W`, `H`, `L` (R16). -/
inductive Micro
  | w
  | h
  | l
  deriving DecidableEq, Repr

/-- A micro-operation string, left to right (R16); a `W` to which no tick comes blocks. -/
def runMicro : List Micro → State → State
  | [], s => s
  | .w :: ms, s =>
    match s.env.waits with
    | [] => s
    | k :: ks => runMicro ms (consumeTick k { s with env := { s.env with waits := ks } })
  | .h :: ms, s => runMicro ms (pin .high s)
  | .l :: ms, s => runMicro ms (pin .low s)

/-- The string of a symbol: `WHWWL`, `WHWLW`, `WHWWL`, `WHLWW` (R82, R83, R100). -/
def symbolMicro : Profile → Bool → List Micro
  | .std, true => [.w, .h, .w, .w, .l]
  | .std, false => [.w, .h, .w, .l, .w]
  | .slow, true => [.w, .h, .w, .w, .l]
  | .slow, false => [.w, .h, .l, .w, .w]

/-- The bits of a byte in the order sent, `v[7]` first (R52, R84). -/
def byteBits (v : Byte) : List Bool := (List.range Config.bitsPerByte).map fun m => v.getLsbD (7 - m)

/-- The bytes of a pixel in wire order: green, red, blue (R53, R85). -/
def pixelBytes (p : Pixel) : List Byte := [p.g, p.r, p.b]

/-- The bits of a pixel in the order sent (R85). -/
def pixelBits (p : Pixel) : List Bool := (pixelBytes p).flatMap byteBits

/-- The bits of a frame in the order sent (R54, R87). -/
def frameBits (ps : List Pixel) : List Bool := ps.flatMap pixelBits

/-- `BYTE v` (R100). -/
def byteMicro (p : Profile) (v : Byte) : List Micro := (byteBits v).flatMap (symbolMicro p)

/-- `PIXEL (r, g, b)` (R100). -/
def pixelMicro (p : Profile) (px : Pixel) : List Micro := (pixelBytes px).flatMap (byteMicro p)

/-- `LATCH` is `W^900` (R100). -/
def latchMicro : List Micro := List.replicate Config.latchTicks .w

/-- The pixels and the latch of a `WRITE` (R100; its `FETCH` expand to no micro-operation). -/
def frameMicro (p : Profile) (ps : List Pixel) : List Micro := ps.flatMap (pixelMicro p) ++ latchMicro

/-- How many tick-waits a string has. -/
def countW (ms : List Micro) : Nat := ms.countP (· = .w)

/-- How many pin operations a string has. -/
def countPin (ms : List Micro) : Nat := ms.countP (· ≠ .w)

/-! ### Closed forms of the log -/

/-- `Toff(PROFILE, v)` (R119): the fall comes this many ticks after the rise. -/
def toff : Profile → Bool → Nat
  | .std, true => Config.t1hStd
  | .std, false => Config.t0hStd
  | .slow, true => Config.t1hSlow
  | .slow, false => Config.t0hSlow

/-- The two entries of the symbol whose first tick is `s`: `H@s`, `L@(s + Toff)` (R119). -/
def symbolLog (p : Profile) (v : Bool) (s : Nat) : List (Level × Nat) := [(.high, s), (.low, s + toff p v)]

/-- The entries of a run of symbols, the first at slot `t` and each three slots after the one before (R81, R134). -/
def bitsLog (p : Profile) (t : Nat) (bits : List Bool) : List (Level × Nat) :=
  bits.zipIdx.flatMap fun vj => symbolLog p vj.1 (t + 3 * vj.2)

/-- The closed form of a frame (R154): `(1, 3j), (0, 3j + Toff(PROFILE, v_j))` for every bit `j` in order. -/
def frameLog (p : Profile) (ps : List Pixel) : List (Level × Nat) := bitsLog p 0 (frameBits ps)

/-! ### Waveforms -/

/-- The line in one slot (R17): high, low, or a pulse inside the slot (`p`). -/
inductive Slot
  | high
  | low
  | pulse
  deriving DecidableEq, Repr

/-- `110`, `100`, `110`, `p00` (R82, R83). -/
def symbolWave : Profile → Bool → List Slot
  | .std, true => [.high, .high, .low]
  | .std, false => [.high, .low, .low]
  | .slow, true => [.high, .high, .low]
  | .slow, false => [.pulse, .low, .low]

/-- `BYTE8`: 24 slots (R84). -/
def byteWave (p : Profile) (v : Byte) : List Slot := (byteBits v).flatMap (symbolWave p)

/-- `PIXW`: 72 slots (R85). -/
def pixelWave (p : Profile) (px : Pixel) : List Slot := (pixelBytes px).flatMap (byteWave p)

/-- The latch field: 900 slots low (R87). -/
def latchWave : List Slot := List.replicate Config.latchTicks .low

/-- `FRAME` (R87). -/
def frameWave (p : Profile) (ps : List Pixel) : List Slot := ps.flatMap (pixelWave p) ++ latchWave

/-- What a log shows in slot `k`, the line being low before the log begins (R17, R81). -/
def slotOf (log : List (Level × Nat)) (k : Nat) : Slot :=
  let before := ((log.filter fun e => decide (e.2 < k)).map Prod.fst).getLast?.getD .low
  let inside := (log.filter fun e => decide (e.2 = k)).map Prod.fst
  match inside.getLast? with
  | none => if before = .high then .high else .low
  | some .high => .high
  | some .low => if inside.contains .high then .pulse else .low

/-! ### Reading a log back -/

/-- The bit of a symbol from the distance between its fall and its rise (R97): 2 ticks is a 1; 1 tick
(standard) or 0 ticks (slow) is a 0; anything else is no symbol. -/
def readFall (p : Profile) (d : Nat) : Option Bool :=
  match p, d with
  | .std, 2 => some true
  | .std, 1 => some false
  | .slow, 2 => some true
  | .slow, 0 => some false
  | _, _ => none

/-- The bits of a log whose symbol `j` rises at `3j` (R97), `none` where the log is no frame's. -/
def readLog (p : Profile) : Nat → List (Level × Nat) → Option (List Bool)
  | _, [] => some []
  | t, (.high, a) :: (.low, c) :: rest =>
    if a = t ∧ a ≤ c then
      match readFall p (c - a), readLog p (t + 3) rest with
      | some v, some vs => some (v :: vs)
      | _, _ => none
    else none
  | _, _ :: _ => none

end Machine
end Sys2Proof
end

