-- ==== Sys2Proof/Safety.lean ====
section
/-! DEFINITION. The terms in which claims about runs are made: the invariant of the reachable states (spec
10_state.md R29 to R32, R87; 40_bit_encoder.md R118, R119), agreement of two states on everything that is not
unspecified (10_state.md R24, R41, R42), agreement but for the diagnostic counter (R37), the pixels a source still
has (R39), and events that let a frame go on. -/

namespace Sys2Proof
namespace Machine

/-- The machine of one build: `PROFILE` is the parameter of its step and no part of its state (R12), and it starts
from the reset of every build. `core` is these machines side by side, each state carrying its build (log 1). -/
def machine (p : Profile) : Host.Core :=
  { State := Body, Fault := Fault, Refusal := Refusal, step := stepOf p, reset := Body.reset }

/-- An outcome of the machine of one build, with the build beside the state. -/
def underOutcome (p : Profile) : Host.Outcome Body Fault Refusal → Host.Outcome State Fault Refusal
  | .next b => .next (b.under p)
  | .fault r => .fault r
  | .refused r => .refused r

/-- The levels of a log alternate, beginning with the change away from `l`, and the last one is `d` (R118, R151). -/
def alternates (l : Level) : List (Level × Nat) → Level → Bool
  | [], d => decide (l = d)
  | e :: es, d => decide (e.1 ≠ l) && alternates e.1 es d

/-- The invariant. Each field is a fact of the spec about reachable states. -/
structure Inv (s : State) : Prop where
  /-- `MODE ∈ {IDLE, FETCH, LATCH}` implies `DOUT = 0` (R32, R155). -/
  lowOutsideShift : s.blk.mode ≠ .shift → s.blk.dout = .low
  /-- In SHIFT, `DOUT = 1` if and only if `HighPart` (R119). -/
  highInHighPart : s.blk.mode = .shift → (s.blk.dout = .high ↔ highPart s.build.profile s.blk = true)
  /-- In LATCH the count is never 0 between steps (R30, R31). -/
  latchPositive : s.blk.mode = .latch → s.blk.latchCnt.val ≠ 0
  /-- In SHIFT the sequencer position is the tick count's position in the pixel (R29, R84, R85). -/
  shiftPosition : s.blk.mode = .shift →
    s.blk.ticks % 72 = 24 * s.blk.chan.val + 3 * s.blk.bitIdx.val + s.blk.phase.val
  /-- FETCH stands on a pixel boundary (R59, R87). -/
  fetchPosition : s.blk.mode = .fetch → s.blk.ticks % 72 = 0
  /-- In LATCH the ticks still to come end 900 ticks after a pixel boundary (R87, R146). -/
  latchPosition : s.blk.mode = .latch → (s.blk.ticks + s.blk.latchCnt.val) % 72 = 900 % 72
  /-- In SHIFT the shift register is the current channel byte, shifted by the bits sent (R23, R133). -/
  shiftByte : s.blk.mode = .shift → s.blk.sh = channelByte s.blk s.blk.chan <<< s.blk.bitIdx.val
  /-- Every `Pin` call of a frame changes the level; `LOG` is exactly the list of transitions (R34, R118). -/
  logAlternates : alternates .low s.blk.log s.blk.dout = true
  /-- A log entry names a tick already consumed (R34). -/
  logInPast : ∀ e ∈ s.blk.log, e.2 < s.blk.ticks

/-- Two states agree on everything except what R41 and R42 call unspecified: the datapath and the sequencer
counters count only in SHIFT, the latch count only in LATCH (R24, R27 to R30). -/
structure LiveEq (s t : State) : Prop where
  build : s.build = t.build
  env : s.env = t.env
  outs : s.obs.outs = t.obs.outs
  mode : s.blk.mode = t.blk.mode
  dout : s.blk.dout = t.blk.dout
  diagErr : s.blk.diagErr = t.blk.diagErr
  ticks : s.blk.ticks = t.blk.ticks
  log : s.blk.log = t.blk.log
  datapath : s.blk.mode = .shift →
    s.blk.r = t.blk.r ∧ s.blk.g = t.blk.g ∧ s.blk.b = t.blk.b ∧ s.blk.sh = t.blk.sh
  position : s.blk.mode = .shift →
    s.blk.chan = t.blk.chan ∧ s.blk.bitIdx = t.blk.bitIdx ∧ s.blk.phase = t.blk.phase
  latch : s.blk.mode = .latch → s.blk.latchCnt = t.blk.latchCnt

/-- The state with the diagnostic counter set to `d` (`none`: a build without `HAS_DIAG`). -/
def withDiag (d : Option Nat) (s : State) : State := { s with blk := { s.blk with diagErr := d } }

/-- The pixels a source has still to give: its `Some` answers up to its first `None` (R39, R51, R61). -/
def pixelsOf : List PxWord → List Pixel
  | [] => []
  | w :: ws =>
    match answerOf w with
    | .some p => p :: pixelsOf ws
    | .none => []
    | .notReady => pixelsOf ws

/-- Events with which a frame goes on: a tick of either kind, "not yet", or a `Poll` (R10, R157). -/
def framesOn : Input → Bool
  | .word w _ => decide (w.fmt = .tkr) && decide (w.bits < 4)
  | .poll => true
  | .cycle _ => false

/-- A tick event of either kind (R93). -/
def isTick : Input → Bool
  | .word w _ => decide (w.fmt = .tkr) && decide (0 < w.bits) && decide (w.bits < 4)
  | .poll => false
  | .cycle _ => false

/-- How many outputs are `o`. -/
def countOut (o : Output) (outs : List Output) : Nat := outs.countP (· = o)

/-- The pins of a log, in order, as outputs. -/
def pinsOf (log : List (Level × Nat)) : List Output := log.map fun e => .pin e.1

/-- `DIAG_ERR` after ticks of the given kinds (R37). -/
def countFails (ks : List TickKind) (d : Option Nat) : Option Nat := ks.foldl (fun d k => countFailed k d) d

/-- `s` after `n` ticks answered by the timer in which the pin operations `log` were made and which end with the
line low: the waits used up, the ticks counted, the log and the outputs extended. -/
def afterWire (n : Nat) (log : List (Level × Nat)) (s : State) : State :=
  { s with
    env := { s.env with waits := s.env.waits.drop n }
    blk := { s.blk with
      ticks := s.blk.ticks + n, dout := .low, log := s.blk.log ++ log
      diagErr := countFails (s.env.waits.take n) s.blk.diagErr }
    obs := { s.obs with outs := s.obs.outs ++ pinsOf log } }

/-- A list of operations executed in turn, stopping at the first that does not go on. -/
def execAll : List Instr → State → Host.Outcome State Fault Refusal
  | [], s => .next s
  | i :: is, s =>
    match exec i s with
    | .next t => execAll is t
    | .fault r => .fault r
    | .refused r => .refused r

/-- Outcomes that agree: both go on and to agreeing states, or both are refused for the same reason. -/
def outcomesAgree (rel : State → State → Prop) (a b : Host.Outcome State Fault Refusal) : Prop :=
  match a, b with
  | .next s, .next t => rel s t
  | .refused x, .refused y => x = y
  | _, _ => False

end Machine
end Sys2Proof
end

