-- ==== Sys2Proof/Certificates/Slice0/Obligations.lean ====
section
/-! DEFINITION. The statements for the provers, from the numbered rules of spec/. A result is written as the whole
next state, so that it says the frame as well: what is not named is unchanged. -/

open Sys2Proof Sys2Proof.Machine

/-! ### Reset, construction, and inputs that do nothing -/

/-- R41, R211: after reset `MODE = IDLE`, the line low, `BUSY = 0`, the ghosts cleared. -/
def Obligations.ResetIsIdleWithTheLineLow : Prop :=
  State.reset.blk.mode = .idle ∧ State.reset.blk.dout = .low ∧ busy State.reset = false ∧
  State.reset.blk.ticks = 0 ∧ State.reset.blk.log = [] ∧ State.reset.blk.diagErr.getD 0 = 0

/-- R170, R171: CONSTRUCT from any state. The registers R170 leaves unspecified are not named: nothing is said of
them. The source, the build and the inputs are left as they are, and the one output is `Pin(0)`. -/
def Obligations.ConstructForcesIdleAndLow : Prop :=
  ∀ (b : Bool) (s : State), ∃ t, exec (.construct b) s = .next t ∧
    t.build = s.build ∧ t.env = s.env ∧ t.obs.outs = s.obs.outs ++ [.pin .low] ∧
    t.blk.dout = .low ∧ t.blk.mode = .idle ∧ busy t = false ∧ t.blk.ticks = 0 ∧ t.blk.log = [] ∧
    t.blk.diagErr = s.blk.diagErr.map (fun _ => 0)

/-- R173: the inputs that do nothing leave the whole state unchanged. A tick in IDLE or FETCH, a `Start` outside
IDLE, a `Poll` or an answer of the source outside FETCH, no command: the block, its build and its outputs are as
before (an event is gone from the inputs). -/
def Obligations.DroppedInputsChangeNothing : Prop :=
  (∀ s : State, exec .nop s = .next s) ∧
  (∀ (s : State) (t e : Bool), s.blk.mode = .idle ∨ s.blk.mode = .fetch → exec (.tick t e) s = .next s) ∧
  (∀ s : State, s.blk.mode ≠ .idle → exec .write s = .next s) ∧
  (∀ (s : State) (d : PxData) (v : Bool), s.blk.mode ≠ .fetch →
    exec (.fetchSome d) s = .next s ∧ exec (.fetchNone v) s = .next s ∧ exec .fetchWait s = .next s) ∧
  (∀ (s : State) (rest : List Input), s.blk.mode ≠ .fetch → s.env.inputs = .poll :: rest →
    step s = .next { s with env := { s.env with inputs := rest } })

/-! ### The start of a frame and the pull -/

/-- R142, R143, R148: `WRITE` in IDLE when the source on offer begins with a pixel. -/
def Obligations.WriteWithAPixelStartsShifting : Prop :=
  ∀ (s : State) (w : PxWord) (ws : List PxWord) (p : Pixel),
    s.blk.mode = .idle → s.env.offer = w :: ws → answerOf w = .some p →
    exec .write s = .next
      { s with
        env := { s.env with source := ws, offer := [] }
        blk := { s.blk with ticks := 0, log := [], mode := .shift, chan := 0, bitIdx := 0, phase := 0
                            r := p.r, g := p.g, b := p.b, sh := p.g }
        obs := { s.obs with outs := s.obs.outs ++ [.take] } }

/-- R142, R143, R148, R152: `WRITE` in IDLE when the source on offer is at its end (that a source with no word left
answers `None` is the model's form of R51, log 5). -/
def Obligations.WriteOfNothingStartsTheLatch : Prop :=
  ∀ s : State, s.blk.mode = .idle → (pixNext s.env.offer).1 = .none →
    exec .write s = .next
      { s with
        env := { s.env with source := (pixNext s.env.offer).2, offer := [] }
        blk := { s.blk with ticks := 0, log := [], mode := .latch, latchCnt := 900 } }

/-- R142, R148, R157: `WRITE` in IDLE when the source on offer is not ready. -/
def Obligations.WriteWithALateSourceStalls : Prop :=
  ∀ (s : State) (w : PxWord) (ws : List PxWord),
    s.blk.mode = .idle → s.env.offer = w :: ws → answerOf w = .notReady →
    exec .write s = .next
      { s with
        env := { s.env with source := ws, offer := [] }
        blk := { s.blk with ticks := 0, log := [], mode := .fetch } }

/-- R143, R60: FETCH.SOME captures all three channels of the port word at once; the first byte is green. That the
answer, given as an event of its own, leaves the frame's source list as it is, is the model's choice of log 21. -/
def Obligations.FetchSomeCapturesThePixel : Prop :=
  ∀ (s : State) (d : PxData), s.blk.mode = .fetch →
    exec (.fetchSome d) s = .next
      { s with
        blk := { s.blk with mode := .shift, chan := 0, bitIdx := 0, phase := 0
                            r := d.extractLsb' 16 8, g := d.extractLsb' 8 8, b := d.extractLsb' 0 8
                            sh := d.extractLsb' 8 8 }
        obs := { s.obs with outs := s.obs.outs ++ [.take] } }

/-- R143, R92: FETCH.NONE loads the latch counter, whatever `px_valid` is. That the answer, given as an event of its
own, leaves the frame's source list as it is, is the model's choice of log 21. -/
def Obligations.FetchNoneLoadsTheLatchCounter : Prop :=
  ∀ (s : State) (v : Bool), s.blk.mode = .fetch →
    exec (.fetchNone v) s = .next { s with blk := { s.blk with mode := .latch, latchCnt := 900 } }

/-- R157: FETCH.WAIT leaves the block in FETCH, and everything as it is: the frame's source list too, the model's
choice of log 21. -/
def Obligations.FetchWaitStaysInFetch : Prop :=
  ∀ s : State, s.blk.mode = .fetch → exec .fetchWait s = .next s

/-! ### The tick -/

/-- R115, `PHASE = 0`: tick `k = TICKS` is consumed, the line rises, and in the slow profile a 0 falls at once. -/
def Obligations.FirstTickOfASymbolRaisesTheLine : Prop :=
  ∀ (s : State) (t e : Bool) (k : TickKind),
    tickKindOf t e = some k → s.blk.mode = .shift → s.blk.phase = 0 →
    exec (.tick t e) s = .next
      (if s.build.profile = .slow ∧ bitOut s.blk = false then
        { s with
          blk := { s.blk with ticks := s.blk.ticks + 1, diagErr := countFailed k s.blk.diagErr, phase := 1, dout := .low
                              log := s.blk.log ++ [(.high, s.blk.ticks), (.low, s.blk.ticks)] }
          obs := { s.obs with outs := s.obs.outs ++ [.pin .high, .pin .low] } }
      else
        { s with
          blk := { s.blk with ticks := s.blk.ticks + 1, diagErr := countFailed k s.blk.diagErr, phase := 1, dout := .high
                              log := s.blk.log ++ [(.high, s.blk.ticks)] }
          obs := { s.obs with outs := s.obs.outs ++ [.pin .high] } })

/-- R115, `PHASE = 1`: in the standard profile a 0 falls here; nothing else acts. -/
def Obligations.SecondTickLowersAStandardZero : Prop :=
  ∀ (s : State) (t e : Bool) (k : TickKind),
    tickKindOf t e = some k → s.blk.mode = .shift → s.blk.phase = 1 →
    exec (.tick t e) s = .next
      (if s.build.profile = .std ∧ bitOut s.blk = false then
        { s with
          blk := { s.blk with ticks := s.blk.ticks + 1, diagErr := countFailed k s.blk.diagErr, phase := 2, dout := .low
                              log := s.blk.log ++ [(.low, s.blk.ticks)] }
          obs := { s.obs with outs := s.obs.outs ++ [.pin .low] } }
      else
        { s with
          blk := { s.blk with ticks := s.blk.ticks + 1, diagErr := countFailed k s.blk.diagErr, phase := 2 } })

/-- R115, `PHASE = 2`: a 1 falls here in both profiles, then `BitDone` runs in the same step (R120). -/
def Obligations.ThirdTickLowersAOneAndHandsOver : Prop :=
  ∀ (s : State) (t e : Bool) (k : TickKind),
    tickKindOf t e = some k → s.blk.mode = .shift → s.blk.phase = 2 →
    exec (.tick t e) s = .next
      (bitDone
        (if bitOut s.blk then
          { s with
            blk := { s.blk with ticks := s.blk.ticks + 1, diagErr := countFailed k s.blk.diagErr, phase := 0, dout := .low
                                log := s.blk.log ++ [(.low, s.blk.ticks)] }
            obs := { s.obs with outs := s.obs.outs ++ [.pin .low] } }
        else
          { s with
            blk := { s.blk with ticks := s.blk.ticks + 1, diagErr := countFailed k s.blk.diagErr, phase := 0 } }))

/-- R131, R144: `BitDone` shifts and counts the bit; after the eighth it loads the next channel byte, red after
green and blue after red; after the third byte it pulls. -/
def Obligations.BitDoneCountsBitsBytesAndPixels : Prop :=
  (∀ s : State, s.blk.bitIdx ≠ 7 →
    bitDone s = { s with blk := { s.blk with sh := s.blk.sh <<< 1, bitIdx := s.blk.bitIdx + 1 } }) ∧
  (∀ s : State, s.blk.bitIdx = 7 → s.blk.chan = 0 →
    bitDone s = { s with blk := { s.blk with sh := s.blk.r, bitIdx := 0, chan := 1 } }) ∧
  (∀ s : State, s.blk.bitIdx = 7 → s.blk.chan = 1 →
    bitDone s = { s with blk := { s.blk with sh := s.blk.b, bitIdx := 0, chan := 2 } }) ∧
  (∀ s : State, s.blk.bitIdx = 7 → s.blk.chan = 2 →
    bitDone s = fetch { s with blk := { s.blk with sh := s.blk.sh <<< 1, bitIdx := 0, chan := 0, mode := .fetch } })

/-- R143: the pull made inside a step, by the source's answer; an exhausted source answers `None` (R51; log 5). -/
def Obligations.PullActsOnTheAnswer : Prop :=
  (∀ (s : State) (w : PxWord) (ws : List PxWord) (p : Pixel), s.env.source = w :: ws → answerOf w = .some p →
    fetch s =
      { s with
        env := { s.env with source := ws }
        blk := { s.blk with mode := .shift, chan := 0, bitIdx := 0, phase := 0, r := p.r, g := p.g, b := p.b, sh := p.g }
        obs := { s.obs with outs := s.obs.outs ++ [.take] } }) ∧
  (∀ s : State, (pixNext s.env.source).1 = .none →
    fetch s =
      { s with
        env := { s.env with source := (pixNext s.env.source).2 }
        blk := { s.blk with mode := .latch, latchCnt := 900 } }) ∧
  (∀ (s : State) (w : PxWord) (ws : List PxWord), s.env.source = w :: ws → answerOf w = .notReady →
    fetch s = { s with env := { s.env with source := ws } })

/-- R146: a tick in LATCH counts down by one; the one that brings the count to 0 ends the frame with `Done`. That the
registers R42 calls unspecified in IDLE (`x[0..3]`, `CHAN`, `BITIDX`, `PHASE`) then keep their stale values is the
model's choice of log 4 (DESIGN CHOICE), not a rule. -/
def Obligations.LatchTickCountsDownToDone : Prop :=
  ∀ (s : State) (t e : Bool) (k : TickKind),
    tickKindOf t e = some k → s.blk.mode = .latch → s.blk.latchCnt ≠ 0 →
    exec (.tick t e) s = .next
      (if s.blk.latchCnt = 1 then
        { s with
          blk := { s.blk with ticks := s.blk.ticks + 1, diagErr := countFailed k s.blk.diagErr
                              latchCnt := 0, mode := .idle }
          obs := { s.obs with outs := s.obs.outs ++ [.done] } }
      else
        { s with
          blk := { s.blk with ticks := s.blk.ticks + 1, diagErr := countFailed k s.blk.diagErr
                              latchCnt := s.blk.latchCnt - 1 } })

/-- R181, R186, R93: the kind of a tick makes no difference but to the diagnostic counter, in which a consumed
failed tick counts one (R37). -/
def Obligations.TickKindChangesOnlyTheDiagnosticCounter : Prop :=
  ∀ (s : State) (e : Bool), Inv s →
    ∃ a b, exec (.tick true false) s = .next a ∧ exec (.tick e true) s = .next b ∧
      withDiag none a = withDiag none b ∧ a.blk.diagErr = s.blk.diagErr ∧
      b.blk.diagErr =
        (if s.blk.mode = .shift ∨ s.blk.mode = .latch then s.blk.diagErr.map (· + 1) else s.blk.diagErr)

/-- R148: the transitions of `MODE` that one tick can make. -/
def Obligations.TickMakesOnlyTheListedModeTransitions : Prop :=
  ∀ (s t : State) (a b : Bool), Inv s → exec (.tick a b) s = .next t →
    match s.blk.mode with
    | .idle => t = s
    | .fetch => t = s
    | .shift =>
      if s.blk.phase = 2 ∧ s.blk.bitIdx = 7 ∧ s.blk.chan = 2 ∧ (a || b) then
        t.blk.mode = (match (pixNext s.env.source).1 with | .some _ => .shift | .none => .latch | .notReady => .fetch)
      else t.blk.mode = .shift
    | .latch => if s.blk.latchCnt = 1 ∧ (a || b) then t.blk.mode = .idle else t.blk.mode = .latch

/-! ### The four symbols -/

/-- R111: `BIT1.STD`: `H@s`, `L@s+2`, three ticks (from `env.waits`, log 8), then the hand-over. -/
def Obligations.Bit1StdIsHighTwoLowOne : Prop :=
  ∀ (s : State) (k₁ k₂ k₃ : TickKind) (ks : List TickKind),
    s.blk.mode = .shift → s.blk.phase = 0 → s.build.profile = .std → bitOut s.blk = true →
    s.env.waits = k₁ :: k₂ :: k₃ :: ks →
    exec .bit1Std s = .next (bitDone
      { s with
        env := { s.env with waits := ks }
        blk := { s.blk with ticks := s.blk.ticks + 3, diagErr := countFails [k₁, k₂, k₃] s.blk.diagErr, dout := .low
                            log := s.blk.log ++ [(.high, s.blk.ticks), (.low, s.blk.ticks + 2)] }
        obs := { s.obs with outs := s.obs.outs ++ [.pin .high, .pin .low] } })

/-- R112: `BIT0.STD`: `H@s`, `L@s+1`, three ticks (from `env.waits`, log 8), then the hand-over. -/
def Obligations.Bit0StdIsHighOneLowTwo : Prop :=
  ∀ (s : State) (k₁ k₂ k₃ : TickKind) (ks : List TickKind),
    s.blk.mode = .shift → s.blk.phase = 0 → s.build.profile = .std → bitOut s.blk = false →
    s.env.waits = k₁ :: k₂ :: k₃ :: ks →
    exec .bit0Std s = .next (bitDone
      { s with
        env := { s.env with waits := ks }
        blk := { s.blk with ticks := s.blk.ticks + 3, diagErr := countFails [k₁, k₂, k₃] s.blk.diagErr, dout := .low
                            log := s.blk.log ++ [(.high, s.blk.ticks), (.low, s.blk.ticks + 1)] }
        obs := { s.obs with outs := s.obs.outs ++ [.pin .high, .pin .low] } })

/-- R113 (the spec's decision D9, log 12): `BIT1.SLOW`: as the standard 1 (ticks from `env.waits`, log 8). -/
def Obligations.Bit1SlowIsHighTwoLowOne : Prop :=
  ∀ (s : State) (k₁ k₂ k₃ : TickKind) (ks : List TickKind),
    s.blk.mode = .shift → s.blk.phase = 0 → s.build.profile = .slow → bitOut s.blk = true →
    s.env.waits = k₁ :: k₂ :: k₃ :: ks →
    exec .bit1Slow s = .next (bitDone
      { s with
        env := { s.env with waits := ks }
        blk := { s.blk with ticks := s.blk.ticks + 3, diagErr := countFails [k₁, k₂, k₃] s.blk.diagErr, dout := .low
                            log := s.blk.log ++ [(.high, s.blk.ticks), (.low, s.blk.ticks + 2)] }
        obs := { s.obs with outs := s.obs.outs ++ [.pin .high, .pin .low] } })

/-- R114 (the spec's decision D9, log 12): `BIT0.SLOW`: `H@s` and at once `L@s`, in this order, three ticks (from
`env.waits`, log 8). -/
def Obligations.Bit0SlowIsAPulseThenLow : Prop :=
  ∀ (s : State) (k₁ k₂ k₃ : TickKind) (ks : List TickKind),
    s.blk.mode = .shift → s.blk.phase = 0 → s.build.profile = .slow → bitOut s.blk = false →
    s.env.waits = k₁ :: k₂ :: k₃ :: ks →
    exec .bit0Slow s = .next (bitDone
      { s with
        env := { s.env with waits := ks }
        blk := { s.blk with ticks := s.blk.ticks + 3, diagErr := countFails [k₁, k₂, k₃] s.blk.diagErr, dout := .low
                            log := s.blk.log ++ [(.high, s.blk.ticks), (.low, s.blk.ticks)] }
        obs := { s.obs with outs := s.obs.outs ++ [.pin .high, .pin .low] } })

/-- R16, R100: what a symbol does, `BitStep` by `BitStep`, is what its micro-operation string does, then the
hand-over. -/
def Obligations.SymbolsRunTheirMicroOperationStrings : Prop :=
  ∀ s : State, s.blk.mode = .shift → s.blk.phase = 0 → Config.ticksPerBit ≤ s.env.waits.length →
    exec (match s.build.profile, bitOut s.blk with
      | .std, true => .bit1Std | .std, false => .bit0Std | .slow, true => .bit1Slow | .slow, false => .bit0Slow) s =
    .next (bitDone (runMicro (symbolMicro s.build.profile (bitOut s.blk)) s))

/-- Model's choice (log 8), no rule of the spec: a composed operation that the block does not stand at the start
of is not sent, and changes nothing. -/
def Obligations.UnselectedOperationsChangeNothing : Prop :=
  ∀ s : State,
    (s.blk.mode ≠ .shift ∨ s.blk.phase ≠ 0 →
      exec .bit1Std s = .next s ∧ exec .bit0Std s = .next s ∧ exec .bit1Slow s = .next s ∧ exec .bit0Slow s = .next s ∧
      (∀ v, exec (.byte v) s = .next s) ∧ ∀ r g b, exec (.pixel r g b) s = .next s) ∧
    (s.build.profile ≠ .std → exec .bit1Std s = .next s ∧ exec .bit0Std s = .next s) ∧
    (s.build.profile ≠ .slow → exec .bit1Slow s = .next s ∧ exec .bit0Slow s = .next s) ∧
    (bitOut s.blk = false → exec .bit1Std s = .next s ∧ exec .bit1Slow s = .next s) ∧
    (bitOut s.blk = true → exec .bit0Std s = .next s ∧ exec .bit0Slow s = .next s) ∧
    (∀ v, s.blk.bitIdx ≠ 0 ∨ s.blk.sh ≠ v → exec (.byte v) s = .next s) ∧
    (∀ r g b, s.blk.bitIdx ≠ 0 ∨ s.blk.chan ≠ 0 ∨ s.blk.r ≠ r ∨ s.blk.g ≠ g ∨ s.blk.b ≠ b ∨ s.blk.sh ≠ g →
      exec (.pixel r g b) s = .next s) ∧
    (s.blk.mode ≠ .latch ∨ s.blk.latchCnt ≠ 900 → exec .latch s = .next s)

/-! ### Bytes, pixels, the latch -/

/-- R130, R132, R133, R134: `BYTE v` sends the eight symbols of `v`, most significant bit first, in 24 ticks; the
shift register is then 0, and the channel multiplexer takes over. The ticks come from `env.waits` (log 8), and the
slow profile's table is the spec's decision D9 (log 12). -/
def Obligations.ByteSendsEightSymbolsMsbFirst : Prop :=
  ∀ (s : State) (v : Byte),
    s.blk.mode = .shift → s.blk.phase = 0 → s.blk.bitIdx = 0 → s.blk.sh = v → 24 ≤ s.env.waits.length →
    exec (.byte v) s = .next (byteDone
      (afterWire 24 (bitsLog s.build.profile s.blk.ticks (byteBits v)) { s with blk := { s.blk with sh := 0 } }))

/-- R145, R53: `PIXEL (r, g, b)` sends the bytes green, red, blue in 72 ticks, and then the next pixel is pulled.
The ticks come from `env.waits` (log 8), and the slow profile's table is the spec's decision D9 (log 12). -/
def Obligations.PixelSendsGreenRedBlue : Prop :=
  ∀ (s : State) (r g b : Byte),
    s.blk.mode = .shift → s.blk.phase = 0 → s.blk.bitIdx = 0 → s.blk.chan = 0 →
    s.blk.r = r → s.blk.g = g → s.blk.b = b → s.blk.sh = g → 72 ≤ s.env.waits.length →
    exec (.pixel r g b) s = .next (fetch
      (afterWire 72 (bitsLog s.build.profile s.blk.ticks (byteBits g ++ byteBits r ++ byteBits b))
        { s with blk := { s.blk with sh := 0, mode := .fetch } }))

/-- R146: `LATCH` waits exactly 900 ticks, makes no pin operation, and ends the frame with `Done`. That the registers
R42 calls unspecified in IDLE (`x[0..3]`, `CHAN`, `BITIDX`, `PHASE`) then keep their stale values is the model's
choice of log 4 (DESIGN CHOICE), and that the ticks come from a list of the state that of log 8. -/
def Obligations.LatchWaitsNineHundredTicks : Prop :=
  ∀ s : State, s.blk.mode = .latch → s.blk.latchCnt = 900 → 900 ≤ s.env.waits.length →
    exec .latch s = .next
      { s with
        env := { s.env with waits := s.env.waits.drop 900 }
        blk := { s.blk with mode := .idle, latchCnt := 0, ticks := s.blk.ticks + 900
                            diagErr := countFails (s.env.waits.take 900) s.blk.diagErr }
        obs := { s.obs with outs := s.obs.outs ++ [.done] } }

/-- R189, R58 (log 8): where the ticks stop after `n` of them, a composed operation stands where `n` single
ticks would have brought the block; it is waiting, not faulted. -/
def Obligations.OperationsWaitWhereTheTicksStop : Prop :=
  ∀ (s : State) (n : Nat), n = s.env.waits.length →
    (symbolReady .std true s = true → n ≤ 3 → exec .bit1Std s = .next (runTicks s.build.profile n s)) ∧
    (symbolReady .std false s = true → n ≤ 3 → exec .bit0Std s = .next (runTicks s.build.profile n s)) ∧
    (symbolReady .slow true s = true → n ≤ 3 → exec .bit1Slow s = .next (runTicks s.build.profile n s)) ∧
    (symbolReady .slow false s = true → n ≤ 3 → exec .bit0Slow s = .next (runTicks s.build.profile n s)) ∧
    (∀ v, byteReady v s = true → n ≤ 24 → exec (.byte v) s = .next (runTicks s.build.profile n s)) ∧
    (∀ r g b, pixelReady r g b s = true → n ≤ 72 → exec (.pixel r g b) s = .next (runTicks s.build.profile n s)) ∧
    (latchReady s = true → n ≤ 900 → exec .latch s = .next (runTicks s.build.profile n s))

/-- R100, R117, R132, R150, R151: ticks and transitions of every composed operation, counted in its string. -/
def Obligations.StringsHaveTheTableCounts : Prop :=
  (∀ p v, countW (symbolMicro p v) = 3 ∧ countPin (symbolMicro p v) = 2) ∧
  (∀ p v, countW (byteMicro p v) = 24 ∧ countPin (byteMicro p v) = 16) ∧
  (∀ p x, countW (pixelMicro p x) = 72 ∧ countPin (pixelMicro p x) = 48) ∧
  (countW latchMicro = 900 ∧ countPin latchMicro = 0) ∧
  (∀ p ps, countW (frameMicro p ps) = 72 * ps.length + 900 ∧ countPin (frameMicro p ps) = 48 * ps.length)

/-! ### Steps -/

/-- A step runs the decoded word: the next event's word is decoded and executed, in the state in which the event
is gone from the inputs and its source is on offer. The second clause, that a word which does not decode is refused
by name, is the model's choice of log 15 (DESIGN CHOICE): no rule of the spec speaks of such a word. -/
def Obligations.StepRunsTheDecodedWord : Prop :=
  ∀ (s : State) (w : PortWord) (src : List PxWord) (rest : List Input),
    s.env.inputs = .word w src :: rest →
    (∀ i, decode w = .ok i → step s = exec i { s with env := { s.env with inputs := rest, offer := src } }) ∧
    (∀ e, decode w = .error e → step s = .refused (.badWord e))

/-- R157, R148, R92: a `Poll` in FETCH executes the answer the source presents and takes it from the source;
elsewhere it does nothing. An exhausted source answers FETCH.NONE (the model's form of R51, log 5). -/
def Obligations.PollRunsTheSourcesAnswer : Prop :=
  ∀ (s : State) (rest : List Input), s.env.inputs = .poll :: rest →
    (s.blk.mode ≠ .fetch → step s = .next { s with env := { s.env with inputs := rest } }) ∧
    (s.blk.mode = .fetch → s.env.source = [] →
      step s = exec (.fetchNone false) { s with env := { s.env with inputs := rest } }) ∧
    (∀ w ws, s.blk.mode = .fetch → s.env.source = w :: ws →
      step s = exec (decodePxr w) { s with env := { s.env with inputs := rest, source := ws } })

/-- R211, R189: with no event the block waits: the state does not change. Idle, it ignores ticks and polls too. -/
def Obligations.WithoutEventsTheBlockWaits : Prop :=
  (∀ s : State, s.env.inputs = [] → step s = .next s) ∧
  (∀ (s : State) (n : Nat), s.blk.mode = .idle → (∀ i ∈ s.env.inputs, framesOn i = true) →
    ∃ t, core.run n s = .next t ∧ t.blk = s.blk ∧ t.build = s.build ∧ t.obs = s.obs)

/-- R188: one clock cycle is `Reset` alone, or else a tick, then a `Start`, then a `Poll`, every pull seeing the
pixel port of that cycle. -/
def Obligations.ClockCycleOrdersItsInputs : Prop :=
  ∀ (s : State) (c : PortSample) (rest : List Input), s.env.inputs = .cycle c :: rest →
    (c.rst = true → step s = exec (.construct c.start) { s with env := { s.env with inputs := rest } }) ∧
    (c.rst = false → ∃ a b t,
      exec (.tick c.tick c.tickErr)
        (if c.tick || c.tickErr then present c.px { s with env := { s.env with inputs := rest } }
         else { s with env := { s.env with inputs := rest } }) = .next a ∧
      exec (if c.start then .write else .nop) (if c.start then present c.px a else a) = .next b ∧
      exec (decodePxr c.px)
        (if b.blk.mode = .fetch then { present c.px b with env := { (present c.px b).env with source := [] } }
         else present c.px b) = .next t ∧
      step s = .next t)

/-! ### Encodings -/

/-- The table's words (R91, R92, R93, R101), written out: they decode to their rows. -/
def Obligations.TableWordsDecodeToTheirRows : Prop :=
  decode ⟨.cmd, 0b10⟩ = .ok (.construct false) ∧ decode ⟨.cmd, 0b11⟩ = .ok (.construct true) ∧
  decode ⟨.cmd, 0b01⟩ = .ok .write ∧ decode ⟨.cmd, 0b00⟩ = .ok .nop ∧
  decode ⟨.pxr, 0x123456 * 4 + 0b10⟩ = .ok (.fetchSome 0x123456) ∧
  decode ⟨.pxr, 0x123456 * 4 + 0b11⟩ = .ok (.fetchNone true) ∧ decode ⟨.pxr, 0b01⟩ = .ok (.fetchNone false) ∧
  decode ⟨.pxr, 0b00⟩ = .ok .fetchWait ∧
  decode ⟨.tkr, 0b10⟩ = .ok (.tick true false) ∧ decode ⟨.tkr, 0b01⟩ = .ok (.tick false true) ∧
  decode ⟨.tkr, 0b11⟩ = .ok (.tick true true) ∧
  decode ⟨.sym, 0b01⟩ = .ok .bit1Std ∧ decode ⟨.sym, 0b00⟩ = .ok .bit0Std ∧
  decode ⟨.sym, 0b11⟩ = .ok .bit1Slow ∧ decode ⟨.sym, 0b10⟩ = .ok .bit0Slow ∧
  decode ⟨.byte8, 0xA5⟩ = .ok (.byte 0xA5) ∧ decode ⟨.pixw, 0x341256⟩ = .ok (.pixel 0x12 0x34 0x56) ∧
  decode ⟨.frame, 0⟩ = .ok .latch

/-- Decoding the encoding of any well-formed operation gives it back, at every operand value. -/
def Obligations.DecodeEncodeIsIdentity : Prop :=
  ∀ i : Instr, i.wf = true → decode (encode i) = .ok i

/-- The decoder is total, gives only well-formed operations, and rejects exactly the words too wide for their port
and a latch field that is not low. -/
def Obligations.DecodeRejectsExactlyTheNonWords : Prop :=
  ∀ w : PortWord,
    (∀ i, decode w = .ok i → i.wf = true) ∧
    ((∃ e, decode w = .error e) ↔ 2 ^ w.fmt.width ≤ w.bits ∨ (w.fmt = .frame ∧ w.bits ≠ 0))

/-- R55, R86, R89, R53: the port word is `{r, g, b}`, the wire order is green, red, blue, and `sel` maps the wire
order to the register numbers; the document's example 0x12, 0x34, 0x56. -/
def Obligations.PortOrderAndWireOrder : Prop :=
  (∀ p : Pixel, pixelOfData (dataOfPixel p) = p) ∧ (∀ d : PxData, dataOfPixel (pixelOfData d) = d) ∧
  (∀ b : Block, channelByte b 0 = b.g ∧ channelByte b 1 = b.r ∧ channelByte b 2 = b.b) ∧
  pixelBytes (pixelOfData 0x123456) = [0x34, 0x12, 0x56]

/-- R90, R133, R52: after `m` shifts of a byte the bit at `SH[7]` is bit `7 - m` of the byte, and after eight
nothing is left. -/
def Obligations.ShiftedByteShowsItsBitsMsbFirst : Prop :=
  ∀ (v : Byte) (m : Nat),
    (m ≤ 7 → (v <<< m).getLsbD 7 = v.getLsbD (7 - m) ∧ (v <<< m).toNat = v.toNat * 2 ^ m % 256 ∧
      byteBits v = (List.range 8).map (fun j => (v <<< j).getLsbD 7)) ∧
    (8 ≤ m → v <<< m = 0)

/-- R97, R154: reading a frame's log back gives the bits that were sent, in both profiles. -/
def Obligations.LogReadsBackToTheBits : Prop :=
  ∀ (p : Profile) (ps : List Pixel), readLog p 0 (frameLog p ps) = some (frameBits ps)

/-- R81 to R87, R17: slot by slot, the closed form of a frame's log is the frame's waveform. -/
def Obligations.LogShowsTheFrameWaveform : Prop :=
  ∀ (p : Profile) (ps : List Pixel),
    (List.range (72 * ps.length + 900)).map (slotOf (frameLog p ps)) = frameWave p ps

/-- R134: the whole-high slots of a byte: `8 + popcount` standard, `2 * popcount` slow. -/
def Obligations.HighSlotsOfAByte : Prop :=
  ∀ v : Byte,
    (byteWave .std v).countP (· = .high) = 8 + (byteBits v).countP (· = true) ∧
    (byteWave .slow v).countP (· = .high) = 2 * (byteBits v).countP (· = true)

/-! ### Invariants and whole-machine rules -/

/-- The invariant holds after reset. -/
def Obligations.InvariantHoldsAtReset : Prop := Inv State.reset

/-- The invariant is kept by every step: the line is low outside SHIFT and high exactly in the high part of a
symbol (R32, R119, R155), the latch count is positive in LATCH (R30), the sequencer position is the position of
`TICKS` in the pixel (R29, R85, R87), the shift register is the shifted channel byte (R23), and `LOG` is the
alternating list of transitions (R34, R118). -/
def Obligations.InvariantKeptByEveryStep : Prop :=
  ∀ s t : State, Inv s → step s = .next t → Inv t

/-- R12: no step and no operation writes `PROFILE`, and none adds or removes the optional counter (R37). -/
def Obligations.BuildParametersAreNeverWritten : Prop :=
  (∀ (i : Instr) (s t : State), exec i s = .next t → t.build = s.build ∧ hasDiag t = hasDiag s) ∧
  (∀ s t : State, step s = .next t → t.build = s.build ∧ hasDiag t = hasDiag s)

/-- R180, R185, R189: every operation has a next state in every state, and a step never faults; the only step
that is refused is the one whose input is no word of its port. -/
def Obligations.NothingEverTraps : Prop :=
  (∀ (i : Instr) (s : State), ∃ t, exec i s = .next t) ∧
  (∀ s : State, (∃ t, step s = .next t) ∨
    ∃ w src rest e, s.env.inputs = .word w src :: rest ∧ decode w = .error e ∧ step s = .refused (.badWord e))

/-- R22, R69: the captured pixel changes only where a pixel is taken (`Take`) or at `Reset`. -/
def Obligations.PixelRegistersChangeOnlyWithTake : Prop :=
  ∀ (i : Instr) (s t : State), (∀ b, i ≠ .construct b) → exec i s = .next t →
    (t.blk.r = s.blk.r ∧ t.blk.g = s.blk.g ∧ t.blk.b = s.blk.b) ∨ Output.take ∈ t.obs.outs.drop s.obs.outs.length

/-- R33, R141: `TICKS` is set to 0 by an accepted `Start`; a single tick adds one if and only if it arrives in SHIFT
or LATCH; the commands and answers that take no tick leave it. -/
def Obligations.TicksCountsConsumedTicks : Prop :=
  ∀ s t : State, Inv s →
    (∀ a b, exec (.tick a b) s = .next t → t.blk.ticks =
      s.blk.ticks + (if (s.blk.mode = .shift ∨ s.blk.mode = .latch) ∧ (a || b) then 1 else 0)) ∧
    (exec .write s = .next t → t.blk.ticks = if s.blk.mode = .idle then 0 else s.blk.ticks) ∧
    (∀ d v, exec .nop s = .next t ∨ exec (.fetchSome d) s = .next t ∨ exec (.fetchNone v) s = .next t ∨
      exec .fetchWait s = .next t → t.blk.ticks = s.blk.ticks)

/-- R24, R41, R42: what is unspecified is never read before it is written: two states that agree but for the
unspecified registers step to states that agree so again. -/
def Obligations.UnspecifiedRegistersAreNeverRead : Prop :=
  ∀ s t : State, LiveEq s t → outcomesAgree LiveEq (step s) (step t)

/-- R37: "the behaviour on the line is identical with and without" the diagnostic counter. -/
def Obligations.DiagnosticCounterChangesNothingElse : Prop :=
  ∀ (s : State) (d : Option Nat),
    outcomesAgree (fun a b => withDiag none a = withDiag none b) (step s) (step (withDiag d s))

/-! ### Whole frames -/

/-- R150, R154, R147, R61, R155: a frame of `N` pixels from a prompt source, whatever the kinds of its ticks: after
`Start` and `72N + 900` ticks the block is idle with the line low, `LOG` is the closed form, `Take` came `N` times
and `Done` once, the source has answered `N + 1` pulls; and after fewer ticks the block is still busy. -/
def Obligations.FrameHasItsClosedForm : Prop :=
  ∀ (s : State) (ps : List Pixel) (rest : List PxWord) (evs : List Input),
    s.blk.mode = .idle → s.blk.dout = .low →
    s.env.inputs = .word ⟨.cmd, 1⟩ (ps.map pxSome ++ pxNone :: rest) :: evs →
    evs.length = 72 * ps.length + 900 → (∀ i ∈ evs, isTick i = true) →
    (∃ t, core.run (1 + (72 * ps.length + 900)) s = .next t ∧
      t.blk.mode = .idle ∧ t.blk.dout = .low ∧ t.blk.ticks = 72 * ps.length + 900 ∧
      t.blk.log = frameLog s.build.profile ps ∧ t.env.source = rest ∧
      ∃ outs, t.obs.outs = s.obs.outs ++ outs ∧
        countOut .take outs = ps.length ∧ countOut .done outs = 1 ∧
        outs.filter (fun o => o ≠ .take ∧ o ≠ .done) = pinsOf (frameLog s.build.profile ps)) ∧
    ∀ n ≤ 72 * ps.length + 899, ∃ t, core.run (1 + n) s = .next t ∧ busy t = true

/-- R153, R154, R157, R150: however the ticks and polls of a frame are interleaved, of whatever kind the ticks are
and however often the source is late, a frame that has ended has the same log and the same tick count: those of
its pixels. That a source whose list is exhausted answers `None` is the model's form of R51 (log 5), and the slow
profile's table, in the closed form, is the spec's decision D9 (log 12). -/
def Obligations.FrameLogDependsOnlyOnPixelsAndProfile : Prop :=
  ∀ (s t : State) (src : List PxWord) (evs : List Input) (n : Nat),
    s.blk.mode = .idle → s.blk.dout = .low →
    s.env.inputs = .word ⟨.cmd, 1⟩ src :: evs → (∀ i ∈ evs, framesOn i = true) →
    core.run (1 + n) s = .next t → t.blk.mode = .idle →
    t.blk.log = frameLog s.build.profile (pixelsOf src) ∧
    t.blk.ticks = 72 * (pixelsOf src).length + 900 ∧ t.blk.dout = .low

/-- R152: the empty frame: 900 ticks, no transition, no `Take`, one `Done`. That an empty list is a source which
answers `None` at once is the model's form of R51 and R98 (log 5). -/
def Obligations.EmptyFrameIsTheLatchAlone : Prop :=
  ∀ (s : State) (evs : List Input),
    s.blk.mode = .idle → s.env.inputs = .word ⟨.cmd, 1⟩ [] :: evs →
    evs.length = 900 → (∀ i ∈ evs, isTick i = true) →
    ∃ t, core.run 901 s = .next t ∧ t.blk.mode = .idle ∧ t.blk.log = [] ∧ t.blk.ticks = 900 ∧
      t.blk.dout = s.blk.dout ∧ t.obs.outs = s.obs.outs ++ [.done]

/-- The model's choice of log 8 (DESIGN CHOICE), by which WRITE is the `Start` step alone (R142) where R100's and
R140's WRITE is the whole frame, and PIXEL and LATCH are executed beside it: so taken apart, `WRITE`, then `PIXEL p`
for each pixel, then `LATCH`, executed in turn, ends idle with the closed form of the frame (R154). -/
def Obligations.FrameIsItsComposedOperations : Prop :=
  ∀ (s : State) (ps : List Pixel),
    s.blk.mode = .idle → s.env.offer = ps.map pxSome → 72 * ps.length + 900 ≤ s.env.waits.length →
    ∃ t, execAll (.write :: (ps.map fun p => .pixel p.r p.g p.b) ++ [.latch]) s = .next t ∧
      t.blk.mode = .idle ∧ t.blk.ticks = 72 * ps.length + 900 ∧ t.blk.log = frameLog s.build.profile ps ∧
      t.env.waits = s.env.waits.drop (72 * ps.length + 900)

/-- R151, R118: the closed form has 48 transitions per pixel, half of them rising, strictly alternating and
beginning with a rising one, and its rises are three ticks apart. -/
def Obligations.FrameLogAlternatesAndCounts : Prop :=
  ∀ (p : Profile) (ps : List Pixel),
    (frameLog p ps).length = 48 * ps.length ∧
    (frameLog p ps).countP (fun e => e.1 = .high) = 24 * ps.length ∧
    alternates .low (frameLog p ps) .low = true ∧
    ∀ j < 24 * ps.length, (frameLog p ps)[2 * j]? = some (.high, 3 * j)

/-- R171: a `Reset` in the middle of a frame abandons it: no `Done`, the pixels not yet taken stay with the
source, and the next `WRITE` begins a fresh frame at tick 0. -/
def Obligations.ResetAbandonsTheFrame : Prop :=
  ∀ (s : State) (b : Bool) (src : List PxWord), ∃ t u,
    exec (.construct b) s = .next t ∧ t.env.source = s.env.source ∧ t.blk.dout = .low ∧
    exec .write { t with env := { t.env with offer := src } } = .next u ∧
    u.blk.ticks = 0 ∧ u.blk.log = [] ∧ u.blk.dout = .low ∧ busy u = true ∧
    Output.done ∉ u.obs.outs.drop s.obs.outs.length

/-! ### The two builds -/

/-- R12, R43: `PROFILE` is a parameter of the step function and no field of the state it acts on. The machine behind
the host's interface, whose states carry their build beside the state (log 1), does step for step what the machine of
that one build does; a run of it never leaves its build. -/
def Obligations.CoreIsTheMachineOfItsBuild : Prop :=
  ∀ (p : Profile) (n : Nat) (b : Body), core.run n (b.under p) = underOutcome p ((machine p).run n b)

/-- R12, R154, R211: in the machine of either build, from its reset, after any number of ticks and polls in IDLE
(which do nothing), a frame from a prompt source has the closed form of that build's profile. The slow profile's table
is the spec's decision D9 (log 12). -/
def Obligations.EitherBuildSendsItsFrameFromReset : Prop :=
  ∀ (p : Profile) (idle : List Input) (ps : List Pixel) (evs : List Input),
    (∀ i ∈ idle, framesOn i = true) → evs.length = 72 * ps.length + 900 → (∀ i ∈ evs, isTick i = true) →
    ∃ t : Body,
      (machine p).run (idle.length + (1 + (72 * ps.length + 900)))
        { Body.reset with env := { Body.reset.env with inputs := idle ++ .word ⟨.cmd, 1⟩ (ps.map pxSome) :: evs } } =
        .next t ∧
      t.blk.mode = .idle ∧ t.blk.dout = .low ∧ t.blk.ticks = 72 * ps.length + 900 ∧ t.blk.log = frameLog p ps ∧
      t.env.inputs = [] ∧ countOut .take t.obs.outs = ps.length ∧ countOut .done t.obs.outs = 1
end

