-- ==== Sys2Proof/Laws/Decode.lean ====
section
/-! SUPPORT. What the decoder answers on words that are as narrow as their port, and the layout of the pixel port as
a number (spec 30_encoding.md R91 to R93; log 7). -/

namespace Sys2Proof

theorem shiftRight_width_eq_zero {b n : Nat} : b >>> n = 0 ↔ b < 2 ^ n := by
  rw [Nat.shiftRight_eq_div_pow, Nat.div_eq_zero_iff_lt (Nat.two_pow_pos n)]

/-- A word that fits its port is read in its format. -/
theorem decode_of_fits {w : PortWord} (h : w.bits < 2 ^ w.fmt.width) : decode w = decodeIn w.fmt w.bits :=
  if_neg (fun hn => hn (shiftRight_width_eq_zero.mpr h))

/-- A word that does not fit its port is rejected by name. -/
theorem decode_of_tooWide {w : PortWord} (h : 2 ^ w.fmt.width ≤ w.bits) : decode w = .error (.tooWide w.fmt) :=
  if_pos (fun hn => absurd (shiftRight_width_eq_zero.mp hn) (Nat.not_lt.mpr h))

theorem decode_cmd {b : Nat} (h : b < 4) : decode ⟨.cmd, b⟩ = .ok (decodeCmd b) := decode_of_fits h
theorem decode_tkr {b : Nat} (h : b < 4) : decode ⟨.tkr, b⟩ = .ok (decodeTkr b) := decode_of_fits h
theorem decode_sym {b : Nat} (h : b < 4) : decode ⟨.sym, b⟩ = .ok (decodeSym b) := decode_of_fits h

theorem testBit_of_bits_pxWord (w : PxWord) :
    (bitsOfPxWord w).testBit 1 = w.valid ∧ (bitsOfPxWord w).testBit 0 = w.pend ∧ bitsOfPxWord w / 4 = w.data.toNat := by
  obtain ⟨v, p, d⟩ := w
  refine ⟨?_, ?_, ?_⟩
  · rw [Nat.testBit_eq_decide_div_mod_eq]
    cases v <;> cases p <;> simp [bitsOfPxWord] <;> omega
  · rw [Nat.testBit_eq_decide_div_mod_eq]
    cases v <;> cases p <;> simp [bitsOfPxWord] <;> omega
  · cases v <;> cases p <;> simp [bitsOfPxWord] <;> omega

/-- The pixel port's number and its signals say the same (log 7). -/
@[simp] theorem pxWordOfBits_bitsOfPxWord (w : PxWord) : pxWordOfBits (bitsOfPxWord w) = w := by
  obtain ⟨h1, h0, hd⟩ := testBit_of_bits_pxWord w
  simp only [pxWordOfBits, h1, h0, hd, BitVec.ofNat_toNat, BitVec.setWidth_eq]

theorem bitsOfPxWord_lt (w : PxWord) : bitsOfPxWord w < 2 ^ 26 := by
  have := w.data.isLt
  obtain ⟨v, p, d⟩ := w
  cases v <;> cases p <;> simp [bitsOfPxWord] at this ⊢ <;> omega

/-- The pixel port's word decodes to the answer it shows (R92). -/
theorem decode_pxr (w : PxWord) : decode ⟨.pxr, bitsOfPxWord w⟩ = .ok (decodePxr w) := by
  rw [decode_of_fits (bitsOfPxWord_lt w)]
  simp only [decodeIn, pxWordOfBits_bitsOfPxWord]

/-- `px_data` as a number (R55). -/
theorem dataOfPixel_toNat (p : Pixel) : (dataOfPixel p).toNat = p.r.toNat * 65536 + p.g.toNat * 256 + p.b.toNat := by
  have hg := p.g.isLt
  have hb := p.b.isLt
  simp only [dataOfPixel]
  rw [BitVec.toNat_append, BitVec.toNat_append, ← Nat.shiftLeft_add_eq_or_of_lt hg, ← Nat.shiftLeft_add_eq_or_of_lt hb,
    Nat.shiftLeft_eq, Nat.shiftLeft_eq]
  omega

/-- The pixel put on the port is the pixel read from it (R55, R86). -/
@[simp] theorem pixelOfData_dataOfPixel (p : Pixel) : pixelOfData (dataOfPixel p) = p := by
  have h := dataOfPixel_toNat p
  have hr := p.r.isLt
  have hg := p.g.isLt
  have hb := p.b.isLt
  obtain ⟨r, g, b⟩ := p
  simp only [pixelOfData, Pixel.mk.injEq]
  refine ⟨?_, ?_, ?_⟩ <;> apply BitVec.eq_of_toNat_eq <;>
    simp only [BitVec.extractLsb'_toNat, h, Nat.shiftRight_eq_div_pow] <;> simp only at hr hg hb <;> omega

end Sys2Proof
end

