-- ==== Sys2Proof/Laws/State.lean ====
section
/-! SUPPORT. One lemma per field per update of the state, each true by `rfl`, so that no proof unfolds a record
update. -/

namespace Sys2Proof
namespace Machine

/-! ### `emit` -/

@[simp] theorem emit_build (o : Output) (s : State) : (emit o s).build = s.build := rfl
@[simp] theorem emit_env (o : Output) (s : State) : (emit o s).env = s.env := rfl
@[simp] theorem emit_blk (o : Output) (s : State) : (emit o s).blk = s.blk := rfl
@[simp] theorem emit_outs (o : Output) (s : State) : (emit o s).obs.outs = s.obs.outs ++ [o] := rfl
@[simp] theorem emit_freeCtr (o : Output) (s : State) : (emit o s).obs.freeCtr = s.obs.freeCtr := rfl

/-! ### `pin` -/

@[simp] theorem pin_build (l : Level) (s : State) : (pin l s).build = s.build := rfl
@[simp] theorem pin_env (l : Level) (s : State) : (pin l s).env = s.env := rfl
@[simp] theorem pin_r (l : Level) (s : State) : (pin l s).blk.r = s.blk.r := rfl
@[simp] theorem pin_g (l : Level) (s : State) : (pin l s).blk.g = s.blk.g := rfl
@[simp] theorem pin_b (l : Level) (s : State) : (pin l s).blk.b = s.blk.b := rfl
@[simp] theorem pin_sh (l : Level) (s : State) : (pin l s).blk.sh = s.blk.sh := rfl
@[simp] theorem pin_mode (l : Level) (s : State) : (pin l s).blk.mode = s.blk.mode := rfl
@[simp] theorem pin_chan (l : Level) (s : State) : (pin l s).blk.chan = s.blk.chan := rfl
@[simp] theorem pin_bitIdx (l : Level) (s : State) : (pin l s).blk.bitIdx = s.blk.bitIdx := rfl
@[simp] theorem pin_phase (l : Level) (s : State) : (pin l s).blk.phase = s.blk.phase := rfl
@[simp] theorem pin_latchCnt (l : Level) (s : State) : (pin l s).blk.latchCnt = s.blk.latchCnt := rfl
@[simp] theorem pin_dout (l : Level) (s : State) : (pin l s).blk.dout = l := rfl
@[simp] theorem pin_diagErr (l : Level) (s : State) : (pin l s).blk.diagErr = s.blk.diagErr := rfl
@[simp] theorem pin_ticks (l : Level) (s : State) : (pin l s).blk.ticks = s.blk.ticks := rfl
@[simp] theorem pin_log (l : Level) (s : State) : (pin l s).blk.log = s.blk.log ++ [(l, s.blk.ticks - 1)] := rfl
@[simp] theorem pin_outs (l : Level) (s : State) : (pin l s).obs.outs = s.obs.outs ++ [.pin l] := rfl
@[simp] theorem pin_freeCtr (l : Level) (s : State) : (pin l s).obs.freeCtr = s.obs.freeCtr := rfl

/-! ### `consumeTick` -/

@[simp] theorem consumeTick_build (k : TickKind) (s : State) : (consumeTick k s).build = s.build := rfl
@[simp] theorem consumeTick_env (k : TickKind) (s : State) : (consumeTick k s).env = s.env := rfl
@[simp] theorem consumeTick_r (k : TickKind) (s : State) : (consumeTick k s).blk.r = s.blk.r := rfl
@[simp] theorem consumeTick_g (k : TickKind) (s : State) : (consumeTick k s).blk.g = s.blk.g := rfl
@[simp] theorem consumeTick_b (k : TickKind) (s : State) : (consumeTick k s).blk.b = s.blk.b := rfl
@[simp] theorem consumeTick_sh (k : TickKind) (s : State) : (consumeTick k s).blk.sh = s.blk.sh := rfl
@[simp] theorem consumeTick_mode (k : TickKind) (s : State) : (consumeTick k s).blk.mode = s.blk.mode := rfl
@[simp] theorem consumeTick_chan (k : TickKind) (s : State) : (consumeTick k s).blk.chan = s.blk.chan := rfl
@[simp] theorem consumeTick_bitIdx (k : TickKind) (s : State) : (consumeTick k s).blk.bitIdx = s.blk.bitIdx := rfl
@[simp] theorem consumeTick_phase (k : TickKind) (s : State) : (consumeTick k s).blk.phase = s.blk.phase := rfl
@[simp] theorem consumeTick_latchCnt (k : TickKind) (s : State) : (consumeTick k s).blk.latchCnt = s.blk.latchCnt := rfl
@[simp] theorem consumeTick_dout (k : TickKind) (s : State) : (consumeTick k s).blk.dout = s.blk.dout := rfl
@[simp] theorem consumeTick_diagErr (k : TickKind) (s : State) : (consumeTick k s).blk.diagErr = countFailed k s.blk.diagErr := rfl
@[simp] theorem consumeTick_ticks (k : TickKind) (s : State) : (consumeTick k s).blk.ticks = s.blk.ticks + 1 := rfl
@[simp] theorem consumeTick_log (k : TickKind) (s : State) : (consumeTick k s).blk.log = s.blk.log := rfl
@[simp] theorem consumeTick_obs (k : TickKind) (s : State) : (consumeTick k s).obs = s.obs := rfl

/-! ### `present` -/

@[simp] theorem present_build (w : PxWord) (s : State) : (present w s).build = s.build := rfl
@[simp] theorem present_inputs (w : PxWord) (s : State) : (present w s).env.inputs = s.env.inputs := rfl
@[simp] theorem present_offer (w : PxWord) (s : State) : (present w s).env.offer = [w] := rfl
@[simp] theorem present_source (w : PxWord) (s : State) : (present w s).env.source = [w] := rfl
@[simp] theorem present_waits (w : PxWord) (s : State) : (present w s).env.waits = s.env.waits := rfl
@[simp] theorem present_blk (w : PxWord) (s : State) : (present w s).blk = s.blk := rfl
@[simp] theorem present_obs (w : PxWord) (s : State) : (present w s).obs = s.obs := rfl

/-! ### `resetStep` -/

@[simp] theorem resetStep_build (s : State) : (resetStep s).build = s.build := rfl
@[simp] theorem resetStep_env (s : State) : (resetStep s).env = s.env := rfl
@[simp] theorem resetStep_r (s : State) : (resetStep s).blk.r = Config.freeByte s.obs.freeCtr := rfl
@[simp] theorem resetStep_g (s : State) : (resetStep s).blk.g = Config.freeByte (s.obs.freeCtr + 1) := rfl
@[simp] theorem resetStep_b (s : State) : (resetStep s).blk.b = Config.freeByte (s.obs.freeCtr + 2) := rfl
@[simp] theorem resetStep_sh (s : State) : (resetStep s).blk.sh = Config.freeByte (s.obs.freeCtr + 3) := rfl
@[simp] theorem resetStep_mode (s : State) : (resetStep s).blk.mode = .idle := rfl
@[simp] theorem resetStep_chan (s : State) : (resetStep s).blk.chan = Config.freeChan s.obs.freeCtr := rfl
@[simp] theorem resetStep_bitIdx (s : State) : (resetStep s).blk.bitIdx = Config.freeBitIdx s.obs.freeCtr := rfl
@[simp] theorem resetStep_phase (s : State) : (resetStep s).blk.phase = Config.freePhase s.obs.freeCtr := rfl
@[simp] theorem resetStep_latchCnt (s : State) : (resetStep s).blk.latchCnt = Config.freeLatchCnt s.obs.freeCtr := rfl
@[simp] theorem resetStep_dout (s : State) : (resetStep s).blk.dout = .low := rfl
@[simp] theorem resetStep_diagErr (s : State) : (resetStep s).blk.diagErr = s.blk.diagErr.map fun _ => 0 := rfl
@[simp] theorem resetStep_ticks (s : State) : (resetStep s).blk.ticks = 0 := rfl
@[simp] theorem resetStep_log (s : State) : (resetStep s).blk.log = [] := rfl
@[simp] theorem resetStep_outs (s : State) : (resetStep s).obs.outs = s.obs.outs ++ [.pin .low] := rfl
@[simp] theorem resetStep_freeCtr (s : State) : (resetStep s).obs.freeCtr = s.obs.freeCtr + 4 := rfl

/-! ### `withDiag` -/

@[simp] theorem withDiag_build (d : Option Nat) (s : State) : (withDiag d s).build = s.build := rfl
@[simp] theorem withDiag_env (d : Option Nat) (s : State) : (withDiag d s).env = s.env := rfl
@[simp] theorem withDiag_r (d : Option Nat) (s : State) : (withDiag d s).blk.r = s.blk.r := rfl
@[simp] theorem withDiag_g (d : Option Nat) (s : State) : (withDiag d s).blk.g = s.blk.g := rfl
@[simp] theorem withDiag_b (d : Option Nat) (s : State) : (withDiag d s).blk.b = s.blk.b := rfl
@[simp] theorem withDiag_sh (d : Option Nat) (s : State) : (withDiag d s).blk.sh = s.blk.sh := rfl
@[simp] theorem withDiag_mode (d : Option Nat) (s : State) : (withDiag d s).blk.mode = s.blk.mode := rfl
@[simp] theorem withDiag_chan (d : Option Nat) (s : State) : (withDiag d s).blk.chan = s.blk.chan := rfl
@[simp] theorem withDiag_bitIdx (d : Option Nat) (s : State) : (withDiag d s).blk.bitIdx = s.blk.bitIdx := rfl
@[simp] theorem withDiag_phase (d : Option Nat) (s : State) : (withDiag d s).blk.phase = s.blk.phase := rfl
@[simp] theorem withDiag_latchCnt (d : Option Nat) (s : State) : (withDiag d s).blk.latchCnt = s.blk.latchCnt := rfl
@[simp] theorem withDiag_dout (d : Option Nat) (s : State) : (withDiag d s).blk.dout = s.blk.dout := rfl
@[simp] theorem withDiag_diagErr (d : Option Nat) (s : State) : (withDiag d s).blk.diagErr = d := rfl
@[simp] theorem withDiag_ticks (d : Option Nat) (s : State) : (withDiag d s).blk.ticks = s.blk.ticks := rfl
@[simp] theorem withDiag_log (d : Option Nat) (s : State) : (withDiag d s).blk.log = s.blk.log := rfl
@[simp] theorem withDiag_obs (d : Option Nat) (s : State) : (withDiag d s).obs = s.obs := rfl

end Machine
end Sys2Proof
end

