-- ==== Sys2Proof/Laws/Ops.lean ====
section
/-! SUPPORT. What each shared operation does, said once: provers cite these and need not unfold the operations. -/

namespace Sys2Proof
namespace Machine

/-! ### Pins -/

@[simp] theorem pinLowIf_true (s : State) : pinLowIf true s = pin .low s := rfl
@[simp] theorem pinLowIf_false (s : State) : pinLowIf false s = s := rfl

/-! ### The channel multiplexer -/

/-- The channel bytes by name (R89): green, red, blue. They do not depend on `SH`. -/
theorem channelByte_eq (b : Block) (c : Fin 3) :
    channelByte b c = if c = 0 then b.g else if c = 1 then b.r else b.b := by
  revert c; simp [Fin.forall_fin_succ, channelByte, sel, Block.x]

/-! ### The pull -/

/-- The three words of a source answer as their names say (R92). -/
@[simp] theorem answerOf_pxSome (p : Pixel) : answerOf (pxSome p) = .some p := by
  simp [answerOf, pxSome]
@[simp] theorem answerOf_pxNone : answerOf pxNone = .none := rfl
@[simp] theorem answerOf_pxWait : answerOf pxWait = .notReady := rfl

theorem pixNext_nil : pixNext [] = (.none, []) := rfl
theorem pixNext_cons (w : PxWord) (ws : List PxWord) : pixNext (w :: ws) = (answerOf w, ws) := rfl

theorem fetch_some {s : State} {w : PxWord} {ws : List PxWord} {p : Pixel}
    (hs : s.env.source = w :: ws) (hw : answerOf w = .some p) :
    fetch s =
      { s with
        env := { s.env with source := ws }
        blk := { s.blk with mode := .shift, chan := 0, bitIdx := 0, phase := 0, r := p.r, g := p.g, b := p.b, sh := p.g }
        obs := { s.obs with outs := s.obs.outs ++ [.take] } } := by
  simp [fetch, hs, pixNext_cons, hw, applyAnswer, emit]

theorem fetch_none {s : State} (hs : (pixNext s.env.source).1 = .none) :
    fetch s =
      { s with
        env := { s.env with source := (pixNext s.env.source).2 }
        blk := { s.blk with mode := .latch, latchCnt := 900 } } := by
  simp only [fetch, hs, applyAnswer]
  rfl

theorem fetch_notReady {s : State} {w : PxWord} {ws : List PxWord}
    (hs : s.env.source = w :: ws) (hw : answerOf w = .notReady) :
    fetch s = { s with env := { s.env with source := ws } } := by
  simp [fetch, hs, pixNext_cons, hw, applyAnswer]

/-- The three things a pull can do, with the answer that makes it do so. -/
theorem fetch_cases (s : State) :
    (∃ p, (pixNext s.env.source).1 = .some p ∧ fetch s =
      { s with
        env := { s.env with source := (pixNext s.env.source).2 }
        blk := { s.blk with mode := .shift, chan := 0, bitIdx := 0, phase := 0, r := p.r, g := p.g, b := p.b, sh := p.g }
        obs := { s.obs with outs := s.obs.outs ++ [.take] } }) ∨
    ((pixNext s.env.source).1 = .none ∧ fetch s =
      { s with
        env := { s.env with source := (pixNext s.env.source).2 }
        blk := { s.blk with mode := .latch, latchCnt := 900 } }) ∨
    ((pixNext s.env.source).1 = .notReady ∧ fetch s =
      { s with env := { s.env with source := (pixNext s.env.source).2 } }) := by
  cases h : (pixNext s.env.source).1 with
  | some p => exact .inl ⟨p, rfl, by simp only [fetch, h, applyAnswer, emit]⟩
  | none => exact .inr (.inl ⟨rfl, fetch_none h⟩)
  | notReady => exact .inr (.inr ⟨rfl, by simp only [fetch, h, applyAnswer]⟩)

@[simp] theorem fetch_build (s : State) : (fetch s).build = s.build := by
  obtain ⟨p, -, h⟩ | ⟨-, h⟩ | ⟨-, h⟩ := fetch_cases s <;> rw [h]

@[simp] theorem fetch_waits (s : State) : (fetch s).env.waits = s.env.waits := by
  obtain ⟨p, -, h⟩ | ⟨-, h⟩ | ⟨-, h⟩ := fetch_cases s <;> rw [h]

@[simp] theorem fetch_inputs (s : State) : (fetch s).env.inputs = s.env.inputs := by
  obtain ⟨p, -, h⟩ | ⟨-, h⟩ | ⟨-, h⟩ := fetch_cases s <;> rw [h]

@[simp] theorem fetch_dout (s : State) : (fetch s).blk.dout = s.blk.dout := by
  obtain ⟨p, -, h⟩ | ⟨-, h⟩ | ⟨-, h⟩ := fetch_cases s <;> rw [h]

@[simp] theorem fetch_ticks (s : State) : (fetch s).blk.ticks = s.blk.ticks := by
  obtain ⟨p, -, h⟩ | ⟨-, h⟩ | ⟨-, h⟩ := fetch_cases s <;> rw [h]

@[simp] theorem fetch_log (s : State) : (fetch s).blk.log = s.blk.log := by
  obtain ⟨p, -, h⟩ | ⟨-, h⟩ | ⟨-, h⟩ := fetch_cases s <;> rw [h]

@[simp] theorem fetch_diagErr (s : State) : (fetch s).blk.diagErr = s.blk.diagErr := by
  obtain ⟨p, -, h⟩ | ⟨-, h⟩ | ⟨-, h⟩ := fetch_cases s <;> rw [h]

/-! ### The end of a bit and of a byte -/

/-- The byte just sent is the pixel's first or second, or its third. -/
theorem chan_cases (c : Fin 3) : c.val < 2 ∨ c = 2 := by
  revert c; decide

/-- The bit just sent is inside its byte, or the eighth. -/
theorem bitIdx_cases (i : Fin 8) : i.val < 7 ∨ i = 7 := by
  revert i; decide

/-- `ByteDone` after the first or the second byte (R144). -/
theorem byteDone_next {s : State} (h : s.blk.chan.val < 2) :
    byteDone s = { s with blk := { s.blk with chan := s.blk.chan + 1, sh := channelByte s.blk (s.blk.chan + 1) } } :=
  if_pos h

/-- `ByteDone` after the third byte (R144). -/
theorem byteDone_last {s : State} (h : s.blk.chan = 2) :
    byteDone s = fetch { s with blk := { s.blk with chan := 0, mode := .fetch } } := by
  simp [byteDone, h]

/-- `BitDone` inside a byte (R131). -/
theorem bitDone_inside {s : State} (h : s.blk.bitIdx.val < 7) :
    bitDone s = { s with blk := { s.blk with sh := shl8 s.blk.sh, bitIdx := s.blk.bitIdx + 1 } } :=
  if_pos h

/-- `BitDone` after the eighth bit (R131). -/
theorem bitDone_last {s : State} (h : s.blk.bitIdx = 7) :
    bitDone s = byteDone { s with blk := { s.blk with sh := shl8 s.blk.sh, bitIdx := 0 } } := by
  simp [bitDone, h]

@[simp] theorem byteDone_build (s : State) : (byteDone s).build = s.build := by
  unfold byteDone; split <;> simp
@[simp] theorem byteDone_waits (s : State) : (byteDone s).env.waits = s.env.waits := by
  unfold byteDone; split <;> simp
@[simp] theorem byteDone_inputs (s : State) : (byteDone s).env.inputs = s.env.inputs := by
  unfold byteDone; split <;> simp
@[simp] theorem byteDone_dout (s : State) : (byteDone s).blk.dout = s.blk.dout := by
  unfold byteDone; split <;> simp
@[simp] theorem byteDone_ticks (s : State) : (byteDone s).blk.ticks = s.blk.ticks := by
  unfold byteDone; split <;> simp
@[simp] theorem byteDone_log (s : State) : (byteDone s).blk.log = s.blk.log := by
  unfold byteDone; split <;> simp
@[simp] theorem byteDone_diagErr (s : State) : (byteDone s).blk.diagErr = s.blk.diagErr := by
  unfold byteDone; split <;> simp

@[simp] theorem bitDone_build (s : State) : (bitDone s).build = s.build := by
  unfold bitDone; split <;> simp
@[simp] theorem bitDone_waits (s : State) : (bitDone s).env.waits = s.env.waits := by
  unfold bitDone; split <;> simp
@[simp] theorem bitDone_inputs (s : State) : (bitDone s).env.inputs = s.env.inputs := by
  unfold bitDone; split <;> simp
@[simp] theorem bitDone_dout (s : State) : (bitDone s).blk.dout = s.blk.dout := by
  unfold bitDone; split <;> simp
@[simp] theorem bitDone_ticks (s : State) : (bitDone s).blk.ticks = s.blk.ticks := by
  unfold bitDone; split <;> simp
@[simp] theorem bitDone_log (s : State) : (bitDone s).blk.log = s.blk.log := by
  unfold bitDone; split <;> simp
@[simp] theorem bitDone_diagErr (s : State) : (bitDone s).blk.diagErr = s.blk.diagErr := by
  unfold bitDone; split <;> simp

/-! ### The tick -/

theorem tickStep_idle {p : Profile} {k : TickKind} {s : State} (h : s.blk.mode = .idle) : tickStep p k s = s := by
  simp [tickStep, h]

theorem tickStep_fetch {p : Profile} {k : TickKind} {s : State} (h : s.blk.mode = .fetch) : tickStep p k s = s := by
  simp [tickStep, h]

theorem tickStep_shift {p : Profile} {k : TickKind} {s : State} (h : s.blk.mode = .shift) :
    tickStep p k s = bitStep p k s := by
  simp [tickStep, h]

theorem tickStep_latch {p : Profile} {k : TickKind} {s : State} (h : s.blk.mode = .latch) : tickStep p k s = latchStep k s := by
  simp [tickStep, h]

/-- `BitStep` at `PHASE = 0` (R115). -/
theorem bitStep_phase0 {p : Profile} {k : TickKind} {s : State} (h : s.blk.phase = 0) :
    bitStep p k s =
      let u := pinLowIf (decide (p = .slow) && !bitOut s.blk) (pin .high (consumeTick k s))
      { u with blk := { u.blk with phase := 1 } } := by
  simp [bitStep, h]

/-- `BitStep` at `PHASE = 1` (R115). -/
theorem bitStep_phase1 {p : Profile} {k : TickKind} {s : State} (h : s.blk.phase = 1) :
    bitStep p k s =
      let u := pinLowIf (decide (p = .std) && !bitOut s.blk) (consumeTick k s)
      { u with blk := { u.blk with phase := 2 } } := by
  simp [bitStep, h]

/-- `BitStep` at `PHASE = 2` (R115, R120). -/
theorem bitStep_phase2 {p : Profile} {k : TickKind} {s : State} (h : s.blk.phase = 2) :
    bitStep p k s =
      let u := pinLowIf (bitOut s.blk) (consumeTick k s)
      bitDone { u with blk := { u.blk with phase := 0 } } := by
  simp [bitStep, h]

/-- `LatchStep` with more ticks to come (R146). -/
theorem latchStep_more {k : TickKind} {s : State} (h : 1 < s.blk.latchCnt.val) :
    latchStep k s =
      { s with blk := { s.blk with
        ticks := s.blk.ticks + 1, diagErr := countFailed k s.blk.diagErr, latchCnt := predLatch s.blk.latchCnt } } := by
  have h0 : s.blk.latchCnt.val ≠ 0 := by omega
  have h1 : (predLatch s.blk.latchCnt).val ≠ 0 := by simp only [predLatch]; omega
  simp [latchStep, h0, h1, consumeTick]

/-- `LatchStep` that ends the frame (R146). -/
theorem latchStep_last {k : TickKind} {s : State} (h : s.blk.latchCnt.val = 1) :
    latchStep k s =
      { s with
        blk := { s.blk with
          ticks := s.blk.ticks + 1, diagErr := countFailed k s.blk.diagErr, latchCnt := 0, mode := .idle }
        obs := { s.obs with outs := s.obs.outs ++ [.done] } } := by
  have h0 : s.blk.latchCnt.val ≠ 0 := by omega
  have h1 : predLatch s.blk.latchCnt = 0 := by apply Fin.ext; simp [predLatch, h]
  simp [latchStep, h0, h1, consumeTick, emit]

/-- `MODE = LATCH` with count 0, which no run reaches (log 9). -/
theorem latchStep_zero {k : TickKind} {s : State} (h : s.blk.latchCnt.val = 0) : latchStep k s = s := by
  simp [latchStep, h]

/-- The cases of `PHASE`. -/
theorem phase_cases (x : Fin 3) : x = 0 ∨ x = 1 ∨ x = 2 := by
  revert x; decide

@[simp] theorem pinLowIf_build (c : Bool) (s : State) : (pinLowIf c s).build = s.build := by
  cases c <;> rfl
@[simp] theorem pinLowIf_env (c : Bool) (s : State) : (pinLowIf c s).env = s.env := by
  cases c <;> rfl

@[simp] theorem bitStep_build (p : Profile) (k : TickKind) (s : State) : (bitStep p k s).build = s.build := by
  obtain h | h | h := phase_cases s.blk.phase
  · simp [bitStep_phase0 h]
  · simp [bitStep_phase1 h]
  · simp [bitStep_phase2 h]

@[simp] theorem bitStep_waits (p : Profile) (k : TickKind) (s : State) :
    (bitStep p k s).env.waits = s.env.waits := by
  obtain h | h | h := phase_cases s.blk.phase
  · simp [bitStep_phase0 h]
  · simp [bitStep_phase1 h]
  · simp [bitStep_phase2 h]

@[simp] theorem bitStep_inputs (p : Profile) (k : TickKind) (s : State) :
    (bitStep p k s).env.inputs = s.env.inputs := by
  obtain h | h | h := phase_cases s.blk.phase
  · simp [bitStep_phase0 h]
  · simp [bitStep_phase1 h]
  · simp [bitStep_phase2 h]

@[simp] theorem latchStep_build (k : TickKind) (s : State) : (latchStep k s).build = s.build := by
  unfold latchStep; split <;> simp; split <;> simp
@[simp] theorem latchStep_env (k : TickKind) (s : State) : (latchStep k s).env = s.env := by
  unfold latchStep; split <;> simp; split <;> simp

@[simp] theorem tickStep_build (p : Profile) (k : TickKind) (s : State) : (tickStep p k s).build = s.build := by
  unfold tickStep; split <;> simp
@[simp] theorem tickStep_waits (p : Profile) (k : TickKind) (s : State) : (tickStep p k s).env.waits = s.env.waits := by
  unfold tickStep; split <;> simp
@[simp] theorem tickStep_inputs (p : Profile) (k : TickKind) (s : State) : (tickStep p k s).env.inputs = s.env.inputs := by
  unfold tickStep; split <;> simp

/-! ### Runs of ticks -/

@[simp] theorem runTicks_zero (p : Profile) (s : State) : runTicks p 0 s = s := rfl

theorem runTicks_blocked {p : Profile} {s : State} (h : s.env.waits = []) (n : Nat) : runTicks p n s = s := by
  cases n with
  | zero => rfl
  | succ n => simp [runTicks, h]

theorem runTicks_cons {p : Profile} {s : State} {k : TickKind} {ks : List TickKind} (h : s.env.waits = k :: ks) (n : Nat) :
    runTicks p (n + 1) s = runTicks p n (tickStep p k { s with env := { s.env with waits := ks } }) := by
  simp [runTicks, h]

/-- A run of ticks in two parts; where the ticks stop in the first, the second adds nothing. -/
theorem runTicks_add (p : Profile) (m n : Nat) (s : State) : runTicks p (m + n) s = runTicks p n (runTicks p m s) := by
  induction m generalizing s with
  | zero => simp
  | succ m ih =>
    cases h : s.env.waits with
    | nil => rw [runTicks_blocked h, runTicks_blocked h, runTicks_blocked h]
    | cons k ks => rw [Nat.succ_add, runTicks_cons h, runTicks_cons h, ih]

@[simp] theorem runTicks_build (p : Profile) (n : Nat) (s : State) : (runTicks p n s).build = s.build := by
  induction n generalizing s with
  | zero => rfl
  | succ n ih =>
    cases h : s.env.waits with
    | nil => rw [runTicks_blocked h]
    | cons k ks => rw [runTicks_cons h, ih, tickStep_build]

/-- Every wait that is answered uses up one tick. -/
theorem runTicks_waits (p : Profile) (n : Nat) (s : State) : (runTicks p n s).env.waits = s.env.waits.drop n := by
  induction n generalizing s with
  | zero => simp
  | succ n ih =>
    cases h : s.env.waits with
    | nil => simp [runTicks_blocked h, h]
    | cons k ks => rw [runTicks_cons h, ih, tickStep_waits]; simp

/-- What is kept by every tick of the build `p` and does not look at the inputs is kept by a run of ticks. -/
theorem runTicks_induction {p : Profile} {P : State → Prop}
    (henv : ∀ s ks, P s → P { s with env := { s.env with waits := ks } })
    (htick : ∀ k s, P s → P (tickStep p k s)) (n : Nat) (s : State) (h : P s) : P (runTicks p n s) := by
  induction n generalizing s with
  | zero => exact h
  | succ n ih =>
    cases hw : s.env.waits with
    | nil => rw [runTicks_blocked hw]; exact h
    | cons k ks => rw [runTicks_cons hw]; exact ih _ (htick _ _ (henv _ _ h))

/-! ### Commands -/

theorem startStep_busy {s : State} (h : s.blk.mode ≠ .idle) : startStep s = s := if_neg h

theorem startStep_idle {s : State} (h : s.blk.mode = .idle) :
    startStep s = fetch { s with
      env := { s.env with source := s.env.offer, offer := [] }
      blk := { s.blk with ticks := 0, log := [], mode := .fetch } } := if_pos h

theorem pollStep_fetch {s : State} (h : s.blk.mode = .fetch) : pollStep s = fetch s := if_pos h
theorem pollStep_other {s : State} (h : s.blk.mode ≠ .fetch) : pollStep s = s := if_neg h

theorem answerStep_fetch {a : Answer} {s : State} (h : s.blk.mode = .fetch) : answerStep a s = applyAnswer a s :=
  if_pos h
theorem answerStep_other {a : Answer} {s : State} (h : s.blk.mode ≠ .fetch) : answerStep a s = s := if_neg h

@[simp] theorem startStep_build (s : State) : (startStep s).build = s.build := by
  unfold startStep; split <;> simp
@[simp] theorem pollStep_build (s : State) : (pollStep s).build = s.build := by
  unfold pollStep; split <;> simp
@[simp] theorem applyAnswer_build (a : Answer) (s : State) : (applyAnswer a s).build = s.build := by
  cases a <;> simp [applyAnswer]
@[simp] theorem answerStep_build (a : Answer) (s : State) : (answerStep a s).build = s.build := by
  unfold answerStep; split <;> simp

/-! ### What an operation is, as a function of the state -/

/-- The effect of an operation. Every operation has one in every state (R180: nothing traps). -/
def effect (i : Instr) (s : State) : State :=
  match exec i s with
  | .next t => t
  | .fault _ => s
  | .refused _ => s

/-- `exec` answers the effect: the equation every claim about `exec` starts from. -/
theorem exec_eq_effect (i : Instr) (s : State) : exec i s = .next (effect i s) := by
  cases i <;> rfl

end Machine
end Sys2Proof
end

