-- ==== Sys2Proof/Laws/Step.lean ====
section
/-! SUPPORT. What a step can do, said once: the inversion lemmas of `effect` and of `step`. -/

namespace Sys2Proof
namespace Machine

/-- The symbol that is ready is one of the build's own profile. -/
theorem symbolReady_profile {p : Profile} {v : Bool} {s : State} (h : symbolReady p v s = true) : s.build.profile = p := by
  simp only [symbolReady, Bool.and_eq_true, decide_eq_true_eq] at h
  exact h.1.2

/-- The shapes of an operation's effect. An invariant kept by these six is kept by every operation. -/
theorem effect_cases (i : Instr) (s : State) :
    effect i s = s ∨ effect i s = resetStep s ∨ effect i s = startStep s ∨
    (∃ a, effect i s = answerStep a s) ∨ (∃ k, effect i s = tickStep s.build.profile k s) ∨
    ∃ n, effect i s = runTicks s.build.profile n s := by
  cases i with
  | construct b => exact .inr (.inl rfl)
  | write => exact .inr (.inr (.inl rfl))
  | nop => exact .inl rfl
  | fetchSome d => exact .inr (.inr (.inr (.inl ⟨_, rfl⟩)))
  | fetchNone v => exact .inr (.inr (.inr (.inl ⟨_, rfl⟩)))
  | fetchWait => exact .inr (.inr (.inr (.inl ⟨_, rfl⟩)))
  | pixel r g b =>
    cases h : pixelReady r g b s
    · exact .inl (by simp [effect, exec, execPixel, h])
    · exact .inr (.inr (.inr (.inr (.inr ⟨_, by simp [effect, exec, execPixel, h]; rfl⟩))))
  | byte v =>
    cases h : byteReady v s
    · exact .inl (by simp [effect, exec, execByte, h])
    · exact .inr (.inr (.inr (.inr (.inr ⟨_, by simp [effect, exec, execByte, h]; rfl⟩))))
  | bit1Std =>
    cases h : symbolReady .std true s
    · exact .inl (by simp [effect, exec, execBit1Std, symbol, h])
    · exact .inr (.inr (.inr (.inr (.inr ⟨_, by simp [effect, exec, execBit1Std, symbol, h, symbolReady_profile h]; rfl⟩))))
  | bit0Std =>
    cases h : symbolReady .std false s
    · exact .inl (by simp [effect, exec, execBit0Std, symbol, h])
    · exact .inr (.inr (.inr (.inr (.inr ⟨_, by simp [effect, exec, execBit0Std, symbol, h, symbolReady_profile h]; rfl⟩))))
  | bit1Slow =>
    cases h : symbolReady .slow true s
    · exact .inl (by simp [effect, exec, execBit1Slow, symbol, h])
    · exact .inr (.inr (.inr (.inr (.inr ⟨_, by simp [effect, exec, execBit1Slow, symbol, h, symbolReady_profile h]; rfl⟩))))
  | bit0Slow =>
    cases h : symbolReady .slow false s
    · exact .inl (by simp [effect, exec, execBit0Slow, symbol, h])
    · exact .inr (.inr (.inr (.inr (.inr ⟨_, by simp [effect, exec, execBit0Slow, symbol, h, symbolReady_profile h]; rfl⟩))))
  | latch =>
    cases h : latchReady s
    · exact .inl (by simp [effect, exec, execLatch, h])
    · exact .inr (.inr (.inr (.inr (.inr ⟨_, by simp [effect, exec, execLatch, h]; rfl⟩))))
  | tick t e =>
    cases h : tickKindOf t e with
    | none => exact .inl (by simp [effect, exec, execTick, h])
    | some k => exact .inr (.inr (.inr (.inr (.inl ⟨k, by simp [effect, exec, execTick, h]⟩))))

/-- What is kept by the shared operations is kept by every operation. -/
theorem effect_induction {P : State → Prop}
    (henv : ∀ s ks, P s → P { s with env := { s.env with waits := ks } })
    (hreset : ∀ s, P s → P (resetStep s)) (hstart : ∀ s, P s → P (startStep s))
    (hanswer : ∀ a s, P s → P (answerStep a s)) (htick : ∀ k s, P s → P (tickStep s.build.profile k s))
    (i : Instr) (s : State) (h : P s) : P (effect i s) := by
  obtain e | e | e | ⟨a, e⟩ | ⟨k, e⟩ | ⟨n, e⟩ := effect_cases i s <;> rw [e]
  · exact h
  · exact hreset s h
  · exact hstart s h
  · exact hanswer a s h
  · exact htick k s h
  · exact (runTicks_induction (P := fun u => P u ∧ u.build = s.build) (fun u ks h => ⟨henv u ks h.1, h.2⟩)
      (fun k u h => ⟨h.2 ▸ htick k u h.1, by rw [tickStep_build]; exact h.2⟩) n s ⟨h, rfl⟩).1

/-- No operation writes the build (R12). -/
@[simp] theorem effect_build (i : Instr) (s : State) : (effect i s).build = s.build := by
  obtain e | e | e | ⟨a, e⟩ | ⟨k, e⟩ | ⟨n, e⟩ := effect_cases i s <;> rw [e] <;> simp

@[simp] theorem clockCycle_build (p : Profile) (c : PortSample) (s : State) : (clockCycle p c s).build = s.build := by
  unfold clockCycle
  split
  · rfl
  · cases tickKindOf c.tick c.tickErr <;> cases c.start <;> simp

/-- `step` is `stepOf` of the build's own profile, with the build handed through (R12, log 1). -/
theorem step_of_stepOf {s u : State} (hb : u.build = s.build)
    (h : stepOf s.build.profile s.toBody = bodyOutcome (.next u)) : step s = .next u := by
  simp only [step, h, bodyOutcome]
  rw [← hb]

/-- A state's step function, over the state itself. -/
theorem stepOf_toBody (s : State) : stepOf s.build.profile s.toBody =
    match s.env.inputs with
    | .cycle c :: _ => bodyOutcome (.next (clockCycle s.build.profile c (nextWord s).2))
    | _ =>
      match decode (nextWord s).1 with
      | .ok i => bodyOutcome (exec i (nextWord s).2)
      | .error e => .refused (.badWord e) := rfl

/-- An operation executed in a step: its whole next state is the step's. -/
theorem step_of_effect {s u : State} {i : Instr} (hb : u.build = s.build)
    (h : stepOf s.build.profile s.toBody = bodyOutcome (exec i u)) : step s = .next (effect i u) := by
  rw [exec_eq_effect] at h
  exact step_of_stepOf (by rw [effect_build, hb]) h

/-- No event: the block waits (R189, R211). -/
theorem step_nil {s : State} (h : s.env.inputs = []) : step s = .next s := by
  refine step_of_effect (i := .nop) rfl ?_
  simp only [stepOf_toBody, h, nextWord]; rfl

/-- A word that decodes is executed. -/
theorem step_word {s : State} {w : PortWord} {src : List PxWord} {rest : List Input} {i : Instr}
    (h : s.env.inputs = .word w src :: rest) (hd : decode w = .ok i) :
    step s = .next (effect i { s with env := { s.env with inputs := rest, offer := src } }) := by
  refine step_of_effect rfl ?_
  simp only [stepOf_toBody, h, nextWord, hd]

/-- A word that does not decode is refused by name (log 15). -/
theorem step_badWord {s : State} {w : PortWord} {src : List PxWord} {rest : List Input} {e : DecodeError}
    (h : s.env.inputs = .word w src :: rest) (hd : decode w = .error e) : step s = .refused (.badWord e) := by
  simp only [step, stepOf_toBody, h, nextWord, hd]

/-- The answer of a pull and the operation of the same word do the same (R92, R143). -/
theorem effect_decodePxr (w : PxWord) (s : State) : effect (decodePxr w) s = answerStep (answerOf w) s := by
  unfold decodePxr answerOf
  split
  · rfl
  · split <;> rfl

/-- A `Poll` outside FETCH does nothing (R148). -/
theorem step_poll_other {s : State} {rest : List Input} (h : s.env.inputs = .poll :: rest) (hm : s.blk.mode ≠ .fetch) :
    step s = .next { s with env := { s.env with inputs := rest } } := by
  refine step_of_effect (i := .nop) (u := { s with env := { s.env with inputs := rest } }) rfl ?_
  simp only [stepOf_toBody, h, nextWord, if_neg hm]; rfl

/-- A `Poll` in FETCH makes the pull again (R157). -/
theorem step_poll_fetch {s : State} {rest : List Input} (h : s.env.inputs = .poll :: rest) (hm : s.blk.mode = .fetch) :
    step s = .next (fetch { s with env := { s.env with inputs := rest } }) := by
  have hp : decode (pollWord s.env.source) = .ok (decodePxr ((s.env.source.head?).getD pxNone)) := by
    cases s.env.source <;> exact decode_pxr _
  have hs := step_of_effect (s := s) (i := decodePxr ((s.env.source.head?).getD pxNone))
    (u := { s with env := { s.env with inputs := rest, source := (pixNext s.env.source).2 } }) rfl
    (by simp only [stepOf_toBody, h, nextWord, if_pos hm, hp])
  rw [hs, effect_decodePxr, answerStep_fetch (by exact hm), fetch]
  cases s.env.source <;> rfl

/-- A clock cycle (R188). -/
theorem step_cycle {s : State} {c : PortSample} {rest : List Input} (h : s.env.inputs = .cycle c :: rest) :
    step s = .next (clockCycle s.build.profile c { s with env := { s.env with inputs := rest } }) := by
  refine step_of_stepOf (by rw [clockCycle_build]) ?_
  simp only [stepOf_toBody, h, nextWord]

/-- A run goes on with the state the step gives. -/
theorem run_succ {n : Nat} {s t : State} (h : step s = .next t) : core.run (n + 1) s = core.run n t := by
  have h' : core.step s = .next t := h
  simp only [Host.Core.run, h']

/-- What is kept by the shared operations, and does not look at the inputs of the run, is kept by every step. -/
theorem step_induction {P : State → Prop} (henv : ∀ s e, P s → P { s with env := e })
    (hreset : ∀ s, P s → P (resetStep s)) (hstart : ∀ s, P s → P (startStep s))
    (hanswer : ∀ a s, P s → P (answerStep a s)) (hfetch : ∀ s, P s → s.blk.mode = .fetch → P (fetch s))
    (htick : ∀ k s, P s → P (tickStep s.build.profile k s))
    {s t : State} (h : P s) (hs : step s = .next t) : P t := by
  have hpoll : ∀ s, P s → P (pollStep s) := by
    intro s h; unfold pollStep; split
    · exact hfetch s h ‹_›
    · exact h
  cases hi : s.env.inputs with
  | nil => rw [step_nil hi] at hs; cases hs; exact h
  | cons ev rest =>
    cases ev with
    | word w src =>
      cases hd : decode w with
      | ok i =>
        rw [step_word hi hd] at hs; cases hs
        exact effect_induction (fun s ks h => henv s _ h) hreset hstart hanswer htick i _ (henv _ _ h)
      | error e => rw [step_badWord hi hd] at hs; cases hs
    | poll =>
      by_cases hm : s.blk.mode = .fetch
      · rw [step_poll_fetch hi hm] at hs; cases hs; exact hfetch _ (henv _ _ h) hm
      · rw [step_poll_other hi hm] at hs; cases hs; exact henv _ _ h
    | cycle c =>
      rw [step_cycle hi] at hs; cases hs
      have h := henv s { s.env with inputs := rest } h
      have hb : ({ s with env := { s.env with inputs := rest } } : State).build = s.build := rfl
      revert h hb
      generalize ({ s with env := { s.env with inputs := rest } } : State) = u
      intro h hb
      rw [← hb]
      unfold clockCycle
      split
      · exact hreset _ h
      · have h1 : P (match tickKindOf c.tick c.tickErr with
            | some k => tickStep u.build.profile k (present c.px u)
            | none => u) := by
          split
          · exact htick _ _ (henv _ _ h)
          · exact h
        refine hpoll _ (henv _ _ ?_)
        split
        · exact hstart _ (henv _ _ h1)
        · exact h1

end Machine
end Sys2Proof
end

