-- ==== Sys2Proof/Laws/Wire.lean ====
section
/-! SUPPORT. The closed forms of the log taken apart symbol by symbol, and what three ticks of a symbol do. -/

namespace Sys2Proof
namespace Machine

/-! ### Logs -/

@[simp] theorem bitsLog_nil (p : Profile) (t : Nat) : bitsLog p t [] = [] := rfl

theorem bitsLog_cons (p : Profile) (t : Nat) (v : Bool) (bs : List Bool) :
    bitsLog p t (v :: bs) = symbolLog p v t ++ bitsLog p (t + 3) bs := by
  simp only [bitsLog, List.zipIdx_cons, List.flatMap_cons, Nat.zero_add, Nat.mul_zero, Nat.add_zero]
  congr 1
  have h : ∀ (n m : Nat) (u : Nat), u + 3 * n = t + 3 * m →
      (bs.zipIdx m).flatMap (fun vj => symbolLog p vj.1 (t + 3 * vj.2)) =
      (bs.zipIdx n).flatMap (fun vj => symbolLog p vj.1 (u + 3 * vj.2)) := by
    induction bs with
    | nil => intros; rfl
    | cons b bs ih =>
      intro n m u hu
      simp only [List.zipIdx_cons, List.flatMap_cons, hu]
      rw [ih (n + 1) (m + 1) u (by omega)]
  exact h 0 1 (t + 3) (by omega)

theorem bitsLog_append (p : Profile) (t : Nat) (as bs : List Bool) :
    bitsLog p t (as ++ bs) = bitsLog p t as ++ bitsLog p (t + 3 * as.length) bs := by
  induction as generalizing t with
  | nil => simp
  | cons a as ih =>
    rw [List.cons_append, bitsLog_cons, ih, bitsLog_cons, List.append_assoc, List.length_cons]
    congr 3; omega

@[simp] theorem pinsOf_nil : pinsOf [] = [] := rfl
@[simp] theorem pinsOf_append (as bs : List (Level × Nat)) : pinsOf (as ++ bs) = pinsOf as ++ pinsOf bs := by
  simp [pinsOf]

@[simp] theorem byteBits_length (v : Byte) : (byteBits v).length = 8 := rfl

@[simp] theorem pixelBits_length (p : Pixel) : (pixelBits p).length = 24 := rfl

theorem frameBits_length (ps : List Pixel) : (frameBits ps).length = 24 * ps.length := by
  induction ps with
  | nil => rfl
  | cons p ps ih =>
    have h : frameBits (p :: ps) = pixelBits p ++ frameBits ps := rfl
    rw [h, List.length_append, ih, pixelBits_length, List.length_cons]; omega

/-! ### Ticks that make a log -/

theorem countFails_append (as bs : List TickKind) (d : Option Nat) :
    countFails (as ++ bs) d = countFails bs (countFails as d) := by
  simp [countFails]

/-- Two stretches of ticks one after the other are one stretch. -/
theorem afterWire_afterWire (m n : Nat) (as bs : List (Level × Nat)) (s : State) :
    afterWire n bs (afterWire m as s) = afterWire (m + n) (as ++ bs) s := by
  simp only [afterWire, List.drop_drop, pinsOf_append, List.append_assoc]
  rw [List.take_add, countFails_append]
  simp [Nat.add_assoc]

@[simp] theorem afterWire_build (n : Nat) (log : List (Level × Nat)) (s : State) :
    (afterWire n log s).build = s.build := rfl
@[simp] theorem afterWire_waits (n : Nat) (log : List (Level × Nat)) (s : State) :
    (afterWire n log s).env.waits = s.env.waits.drop n := rfl
@[simp] theorem afterWire_mode (n : Nat) (log : List (Level × Nat)) (s : State) :
    (afterWire n log s).blk.mode = s.blk.mode := rfl
@[simp] theorem afterWire_phase (n : Nat) (log : List (Level × Nat)) (s : State) :
    (afterWire n log s).blk.phase = s.blk.phase := rfl
@[simp] theorem afterWire_bitIdx (n : Nat) (log : List (Level × Nat)) (s : State) :
    (afterWire n log s).blk.bitIdx = s.blk.bitIdx := rfl
@[simp] theorem afterWire_chan (n : Nat) (log : List (Level × Nat)) (s : State) :
    (afterWire n log s).blk.chan = s.blk.chan := rfl
@[simp] theorem afterWire_sh (n : Nat) (log : List (Level × Nat)) (s : State) :
    (afterWire n log s).blk.sh = s.blk.sh := rfl
@[simp] theorem afterWire_ticks (n : Nat) (log : List (Level × Nat)) (s : State) :
    (afterWire n log s).blk.ticks = s.blk.ticks + n := rfl
@[simp] theorem afterWire_log (n : Nat) (log : List (Level × Nat)) (s : State) :
    (afterWire n log s).blk.log = s.blk.log ++ log := rfl
@[simp] theorem afterWire_dout (n : Nat) (log : List (Level × Nat)) (s : State) :
    (afterWire n log s).blk.dout = .low := rfl

/-- Three ticks from the start of a symbol: the two entries of the symbol's closed form (R119), then the hand-over. -/
theorem runTicks_symbol {p : Profile} {s : State} (hm : s.blk.mode = .shift) (hp : s.blk.phase = 0)
    (hw : 3 ≤ s.env.waits.length) :
    runTicks p 3 s =
      bitDone (afterWire 3 (symbolLog p (bitOut s.blk) s.blk.ticks) s) := by
  obtain ⟨⟨⟨inp, off, src, waits⟩, ⟨r, g, b, sh, mode, chan, bi, ph, lc, dout, de, ticks, log⟩, ⟨outs, fc⟩⟩, _⟩ := s
  simp only at hm hp hw
  subst hm hp
  match waits, hw with
  | k₁ :: k₂ :: k₃ :: ks, _ =>
    rw [runTicks_cons rfl, tickStep_shift rfl, bitStep_phase0 rfl]
    cases p <;> cases hv : sh[7] <;>
      simp [bitOut, hv, runTicks, tickStep, bitStep, pin, emit, consumeTick, afterWire, symbolLog, toff, pinsOf,
        countFails, Config.t1hStd, Config.t0hStd, Config.t1hSlow, Config.t0hSlow]

end Machine
end Sys2Proof
end

