-- ==== Sys2Proof/Laws/Frame.lean ====
section
/-! SUPPORT. What the events of a frame do, and what the ticks of a run of bits and of the latch interval do: the
pieces from which claims about whole bytes, pixels and frames are put together. -/

namespace Sys2Proof
namespace Machine

/-! ### Events of a frame -/

/-- What an event with which a frame goes on does: nothing, one tick, or the pull again in FETCH. -/
theorem step_framesOn {s : State} {ev : Input} {rest : List Input} (h : s.env.inputs = ev :: rest) (hf : framesOn ev = true) :
    ∃ off, step s = .next { s with env := { s.env with inputs := rest, offer := off } } ∨
      (∃ k, step s = .next (tickStep s.build.profile k { s with env := { s.env with inputs := rest, offer := off } })) ∨
      (s.blk.mode = .fetch ∧ step s = .next (fetch { s with env := { s.env with inputs := rest, offer := off } })) := by
  cases ev with
  | word w src =>
    obtain ⟨f, b⟩ := w
    simp only [framesOn, Bool.and_eq_true, decide_eq_true_eq] at hf
    obtain ⟨rfl, hb⟩ := hf
    refine ⟨src, ?_⟩
    have hd := decode_tkr hb
    rw [step_word h hd]
    unfold decodeTkr
    split
    · have : ∀ t e s, effect (.tick t e) s = s ∨ ∃ k, effect (.tick t e) s = tickStep s.build.profile k s := by
        intro t e s; cases hk : tickKindOf t e with
        | none => left; simp [effect, exec, execTick, hk]
        | some k => right; exact ⟨k, by simp [effect, exec, execTick, hk]⟩
      obtain e | ⟨k, e⟩ := this (b.testBit 1) (b.testBit 0) { s with env := { s.env with inputs := rest, offer := src } }
      · left; rw [e]
      · right; left; exact ⟨k, by rw [e]⟩
    · left; rfl
  | poll =>
    refine ⟨s.env.offer, ?_⟩
    by_cases hm : s.blk.mode = .fetch
    · exact .inr (.inr ⟨hm, step_poll_fetch h hm⟩)
    · exact .inl (step_poll_other h hm)
  | cycle c => simp [framesOn] at hf

/-- What a tick event does. -/
theorem step_isTick {s : State} {ev : Input} {rest : List Input} (h : s.env.inputs = ev :: rest) (hf : isTick ev = true) :
    ∃ off k, step s = .next (tickStep s.build.profile k { s with env := { s.env with inputs := rest, offer := off } }) := by
  cases ev with
  | word w src =>
    obtain ⟨f, b⟩ := w
    simp only [isTick, Bool.and_eq_true, decide_eq_true_eq] at hf
    obtain ⟨⟨rfl, hb0⟩, hb⟩ := hf
    refine ⟨src, ?_⟩
    have hd := decode_tkr hb
    rw [step_word h hd]
    obtain rfl | rfl | rfl : b = 1 ∨ b = 2 ∨ b = 3 := by omega
    · exact ⟨.failed, rfl⟩
    · exact ⟨.fired, rfl⟩
    · exact ⟨.failed, rfl⟩
  | poll => simp [isTick] at hf
  | cycle c => simp [isTick] at hf

/-! ### Runs of bits -/

/-- The first `n` bits of a shift register, in the order sent (R90). -/
def headBits (sh : Byte) (n : Nat) : List Bool := (List.range n).map fun j => sh.getLsbD (7 - j)

/-- The first bit is at `SH[7]`; the rest are the first bits of the register shifted (R133). -/
theorem headBits_succ (sh : Byte) (n : Nat) (hn : n < 8) :
    headBits sh (n+1) = sh.getLsbD 7 :: headBits (sh <<< 1) n := by
  simp only [headBits, List.range_succ_eq_map, List.map_cons, List.map_map]
  congr 1
  apply List.map_congr_left
  intro j hj
  have hj : j < n := by simpa using hj
  simp only [Function.comp, BitVec.getLsbD_shiftLeft]
  have : 7 - j < 8 := by omega
  have h2 : ¬ 7 - j < 1 := by omega
  simp only [this, h2, decide_true, decide_false, Bool.not_false, Bool.true_and]
  congr 1

/-- The ticks of the bits left in a byte: their part of the closed form, then `ByteDone`. -/
theorem runTicks_bits {p : Profile} (n : Nat) (hn : n ≤ 7) (s : State) (hm : s.blk.mode = .shift) (hp : s.blk.phase = 0)
    (hb : s.blk.bitIdx.val + n = 7) (hw : 3 * (n+1) ≤ s.env.waits.length) :
    runTicks p (3 * (n+1)) s = byteDone (afterWire (3 * (n+1)) (bitsLog p s.blk.ticks (headBits s.blk.sh (n+1)))
      { s with blk := { s.blk with sh := s.blk.sh <<< (n+1), bitIdx := 0 } }) := by
  induction n generalizing s with
  | zero =>
    have h7 : s.blk.bitIdx = 7 := by apply Fin.ext; simpa using hb
    rw [runTicks_symbol hm hp hw, bitDone_last (by simp [h7])]
    congr 1
  | succ n ih =>
    have e : 3 * (n + 1 + 1) = 3 + 3 * (n + 1) := by omega
    rw [e, runTicks_add, runTicks_symbol hm hp (by omega), bitDone_inside (by simp; omega)]
    have hc : (s.blk.bitIdx + 1).val = s.blk.bitIdx.val + 1 := by
      rw [Fin.val_add_one, if_neg (by rw [Fin.ext_iff]; change ¬ _ = 7; omega)]
    rw [ih (by omega) _ (by exact hm) (by exact hp) (by simp [hc]; omega) (by simp; omega)]
    rw [headBits_succ s.blk.sh (n+1) (by omega), bitsLog_cons p s.blk.ticks, ← afterWire_afterWire 3 (3 * (n+1))]
    have h2 : s.blk.sh <<< (n + 1 + 1) = s.blk.sh <<< 1 <<< (n+1) := by rw [← BitVec.shiftLeft_add]; congr 1; omega
    rw [h2]
    rfl

/-! ### The latch -/

/-- Where the ticks stop, more waits add nothing (R189). -/
theorem runTicks_short {p : Profile} (n m : Nat) (s : State) (h : s.env.waits.length = n) (hnm : n ≤ m) : runTicks p m s = runTicks p n s := by
  obtain ⟨d, rfl⟩ := Nat.exists_eq_add_of_le hnm
  rw [runTicks_add, runTicks_blocked (by rw [runTicks_waits]; simp [h])]

/-- The ticks of a latch interval, from any count (R146). -/
theorem runTicks_latch {p : Profile} (n : Nat) (s : State) (hm : s.blk.mode = .latch) (hc : s.blk.latchCnt.val = n + 1) (hw : n + 1 ≤ s.env.waits.length) :
    runTicks p (n+1) s =
      { s with
        env := { s.env with waits := s.env.waits.drop (n+1) }
        blk := { s.blk with mode := .idle, latchCnt := 0, ticks := s.blk.ticks + (n+1)
                            diagErr := countFails (s.env.waits.take (n+1)) s.blk.diagErr }
        obs := { s.obs with outs := s.obs.outs ++ [.done] } } := by
  induction n generalizing s with
  | zero =>
    match hws : s.env.waits, hw with
    | k :: ks, _ =>
      rw [runTicks_cons hws, tickStep_latch (by exact hm), latchStep_last (by exact hc)]
      simp [countFails]
  | succ n ih =>
    match hws : s.env.waits, hw with
    | k :: ks, hw =>
      rw [runTicks_cons hws, tickStep_latch (by exact hm), latchStep_more (by simp; omega)]
      rw [ih _ (by exact hm) (by simp [predLatch]; omega) (by simpa using hw)]
      simp [countFails]; omega

/-! ### Ticks and the inputs they do not look at -/

/-- `t` is `s` with other inputs still to come, the source being the same. -/
def SameBut (s t : State) : Prop :=
  s.build = t.build ∧ s.blk = t.blk ∧ s.obs = t.obs ∧ s.env.source = t.env.source

theorem SameBut.refl (s : State) : SameBut s s := ⟨rfl, rfl, rfl, rfl⟩

theorem SameBut.fetch {s t : State} (h : SameBut s t) : SameBut (fetch s) (fetch t) := by
  obtain ⟨⟨⟨i, o, sr, w⟩, b, ob⟩, bu⟩ := s
  obtain ⟨⟨⟨i', o', sr', w'⟩, b', ob'⟩, bu'⟩ := t
  obtain ⟨h1, h2, h3, h4⟩ := h
  simp only at h1 h2 h3 h4
  subst h1 h2 h3 h4
  simp only [Machine.fetch]
  cases (pixNext sr).1 <;> exact ⟨rfl, rfl, rfl, rfl⟩

theorem SameBut.byteDone {s t : State} (h : SameBut s t) : SameBut (byteDone s) (byteDone t) := by
  obtain ⟨h1, h2, h3, h4⟩ := h
  unfold Machine.byteDone
  rw [← h2]
  split
  · exact ⟨h1, by simp only [h2], h3, h4⟩
  · exact SameBut.fetch ⟨h1, by simp only [h2], h3, h4⟩

theorem SameBut.bitDone {s t : State} (h : SameBut s t) : SameBut (bitDone s) (bitDone t) := by
  obtain ⟨h1, h2, h3, h4⟩ := h
  unfold Machine.bitDone
  rw [← h2]
  split
  · exact ⟨h1, by simp only [h2], h3, h4⟩
  · exact SameBut.byteDone ⟨h1, by simp only [h2], h3, h4⟩

/-- A tick looks at nothing of the inputs but the source. -/
theorem SameBut.tick {p : Profile} {k : TickKind} {s t : State} (h : SameBut s t) : SameBut (tickStep p k s) (tickStep p k t) := by
  obtain ⟨⟨⟨i, o, sr, w⟩, b, ob⟩, bu⟩ := s
  obtain ⟨⟨⟨i', o', sr', w'⟩, b', ob'⟩, bu'⟩ := t
  obtain ⟨h1, h2, h3, h4⟩ := h
  simp only at h1 h2 h3 h4
  subst h1 h2 h3 h4
  cases hm : b.mode with
  | idle => rw [tickStep_idle hm, tickStep_idle hm]; exact ⟨rfl, rfl, rfl, rfl⟩
  | fetch => rw [tickStep_fetch hm, tickStep_fetch hm]; exact ⟨rfl, rfl, rfl, rfl⟩
  | shift =>
    rw [tickStep_shift hm, tickStep_shift hm]
    obtain hp | hp | hp := phase_cases b.phase
    · rw [bitStep_phase0 hp, bitStep_phase0 hp]
      cases (decide (p = .slow) && !bitOut b) <;> exact ⟨rfl, rfl, rfl, rfl⟩
    · rw [bitStep_phase1 hp, bitStep_phase1 hp]
      cases (decide (p = .std) && !bitOut b) <;> exact ⟨rfl, rfl, rfl, rfl⟩
    · rw [bitStep_phase2 hp, bitStep_phase2 hp]
      cases (bitOut b) <;> exact SameBut.bitDone ⟨rfl, rfl, rfl, rfl⟩
  | latch =>
    rw [tickStep_latch hm, tickStep_latch hm]
    unfold latchStep
    split
    · exact ⟨rfl, rfl, rfl, rfl⟩
    · simp only []; split <;> exact ⟨rfl, rfl, rfl, rfl⟩

/-- `n` tick events do what `n` answered tick-waits do. -/
theorem run_ticks (n : Nat) {s : State} {evs : List Input} (h : s.env.inputs = evs) (hl : evs.length = n)
    (ht : ∀ i ∈ evs, isTick i = true) {u : State} (hu : SameBut s u) :
    ∃ ks : List TickKind, ks.length = n ∧ ∃ t, core.run n s = .next t ∧ t.env.inputs = [] ∧
      SameBut t (runTicks s.build.profile n { u with env := { u.env with waits := ks } }) := by
  induction n generalizing s evs u with
  | zero =>
    obtain rfl : evs = [] := by simpa using hl
    exact ⟨[], rfl, s, rfl, h, hu⟩
  | succ n ih =>
    match evs, hl with
    | ev :: rest, hl =>
      obtain ⟨off, k, hs⟩ := step_isTick h (ht ev (by simp))
      have hu' : SameBut (tickStep s.build.profile k { s with env := { s.env with inputs := rest, offer := off } }) (tickStep s.build.profile k u) :=
        SameBut.tick hu
      obtain ⟨ks, hk, t, hr, hi, hst⟩ := ih (s := tickStep s.build.profile k { s with env := { s.env with inputs := rest, offer := off } })
        (evs := rest) (tickStep_inputs _ _ _) (by simpa using hl) (fun i hi => ht i (by simp [hi])) hu'
      rw [tickStep_build] at hst
      refine ⟨k :: ks, by simp [hk], t, by rw [run_succ hs, hr], hi, ?_⟩
      rw [runTicks_cons rfl]
      have hw : ∀ v w : State, SameBut v w → v.env.waits = w.env.waits → ∀ m, SameBut (runTicks s.build.profile m v) (runTicks s.build.profile m w) := by
        intro v w hvw he m
        induction m generalizing v w with
        | zero => exact hvw
        | succ m ihm =>
          cases hv : v.env.waits with
          | nil => rw [runTicks_blocked hv, runTicks_blocked (he ▸ hv)]; exact hvw
          | cons k ks =>
            rw [runTicks_cons hv, runTicks_cons (he ▸ hv)]
            exact ihm _ _ (SameBut.tick hvw) (by simp)
      have hfin := hw { tickStep s.build.profile k u with env := { (tickStep s.build.profile k u).env with waits := ks } }
        (tickStep s.build.profile k { u with env := { u.env with waits := ks } })
        (by
          have := SameBut.tick (p := s.build.profile) (k := k) (s := u) (t := { u with env := { u.env with waits := ks } }) ⟨rfl, rfl, rfl, rfl⟩
          exact this) (by simp) n
      obtain ⟨a, b, c, d⟩ := hst
      obtain ⟨a', b', c', d'⟩ := hfin
      exact ⟨a.trans a', b.trans b', c.trans c', d.trans d'⟩

end Machine
end Sys2Proof
end

