-- ==== Sys2Proof/Laws/PerInstr.lean ====
section
/-! SUPPORT. The family `EncodeFits`, one lemma for each constructor of `Instr`: the word an operation encodes to has
no bit above the width of its port (spec 30_encoding.md R84, R85, R87, R91 to R93, R101). -/

namespace Sys2Proof.Laws.EncodeFits

/-- The word of the operation is as narrow as the port of its format. -/
def Statement (i : Instr) : Prop := (encode i).bits < 2 ^ (encode i).fmt.width

theorem construct (start : Bool) : Statement (.construct start) := by
  cases start <;> simp [Statement, encode, Format.width]
theorem write : Statement .write := by simp [Statement, encode, Format.width]
theorem nop : Statement .nop := by simp [Statement, encode, Format.width]
theorem fetchSome (data : PxData) : Statement (.fetchSome data) := bitsOfPxWord_lt _
theorem fetchNone (valid : Bool) : Statement (.fetchNone valid) := bitsOfPxWord_lt _
theorem fetchWait : Statement .fetchWait := bitsOfPxWord_lt _
theorem pixel (r g b : Byte) : Statement (.pixel r g b) := by
  have hr := r.isLt
  have hg := g.isLt
  have hb := b.isLt
  simp only [Statement, encode, Format.width]; omega
theorem byte (v : Byte) : Statement (.byte v) := v.isLt
theorem bit1Std : Statement .bit1Std := by simp [Statement, encode, Format.width]
theorem bit0Std : Statement .bit0Std := by simp [Statement, encode, Format.width]
theorem bit1Slow : Statement .bit1Slow := by simp [Statement, encode, Format.width]
theorem bit0Slow : Statement .bit0Slow := by simp [Statement, encode, Format.width]
theorem latch : Statement .latch := Nat.two_pow_pos _
theorem tick (t e : Bool) : Statement (.tick t e) := by
  cases t <;> cases e <;> simp [Statement, encode, Format.width]

end Sys2Proof.Laws.EncodeFits
end

