-- ==== Sys2Proof/Tests/Slice0.lean ====
section
/-! SUPPORT. Small tests, their expected results from the tables and vectors of the spec (95_test_vectors.md, by
identifier), and for every obligation with hypotheses a named state that meets them. -/

namespace Sys2Proof.Tests
open Sys2Proof.Machine

/-! ### Small states -/

/-- A state with the given profile and block, and nothing to come. -/
def mk (p : Profile) (b : Block) : State :=
  { build := ⟨p⟩, env := { inputs := [], offer := [], source := [], waits := [] }, blk := b, obs := { outs := [], freeCtr := 0 } }

/-- A block in IDLE, with stale values left in every register that IDLE does not use. -/
def idleBlk : Block :=
  { r := 9, g := 8, b := 7, sh := 6, mode := .idle, chan := 2, bitIdx := 5, phase := 1, latchCnt := 3
    dout := .low, diagErr := some 4, ticks := 17, log := [(.high, 1), (.low, 2)] }

/-- A block in FETCH, on a pixel boundary. -/
def fetchBlk : Block := { idleBlk with mode := .fetch, ticks := 72 }

/-- A block at the first tick of a pixel whose green byte is `v`. -/
def shiftBlk (v : Byte) : Block :=
  { r := 0x12, g := v, b := 0x56, sh := v, mode := .shift, chan := 0, bitIdx := 0, phase := 0, latchCnt := 0
    dout := .low, diagErr := some 0, ticks := 0, log := [] }

/-- The last tick but one of the last bit of a pixel has been sent; the bit is `0` (standard profile). -/
def lastBitBlk : Block :=
  { shiftBlk 0 with b := 0, sh := 0, chan := 2, bitIdx := 7, phase := 2, ticks := 71, log := [(.high, 69), (.low, 70)] }

/-- A block in LATCH with the given count. -/
def latchBlk (c : Fin 901) : Block := { shiftBlk 0 with mode := .latch, latchCnt := c, ticks := 972 - c.val }

def idleS : State := mk .std idleBlk
def fetchS : State := mk .std fetchBlk
def shiftS (p : Profile) (v : Byte) : State := mk p (shiftBlk v)
def lastBitS : State := mk .std lastBitBlk
def latchS (c : Fin 901) : State := mk .std (latchBlk c)

def setInputs (is : List Input) (s : State) : State := { s with env := { s.env with inputs := is } }
def setOffer (ws : List PxWord) (s : State) : State := { s with env := { s.env with offer := ws } }
def setSource (ws : List PxWord) (s : State) : State := { s with env := { s.env with source := ws } }
def setWaits (ks : List TickKind) (s : State) : State := { s with env := { s.env with waits := ks } }

/-- The state an outcome goes on with. -/
def nextOf : Host.Outcome State Fault Refusal → Option State
  | .next t => some t
  | .fault _ => none
  | .refused _ => none

def blkOf (o : Host.Outcome State Fault Refusal) : Option Block := (nextOf o).map fun t => t.blk
def outsOf (o : Host.Outcome State Fault Refusal) : Option (List Output) := (nextOf o).map fun t => t.obs.outs
def logOf (o : Host.Outcome State Fault Refusal) : Option (List (Level × Nat)) := (blkOf o).map Block.log

/-! ### Well-formedness: the one check, and an ill-formed term it refuses (R93) -/

theorem test_wf_tick_none_refused : (Instr.tick false false).wf = false := by decide
theorem test_wf_tick_both : (Instr.tick true true).wf = true ∧ (Instr.tick true false).wf = true ∧ (Instr.tick false true).wf = true := by
  decide

/-! ### Decoding: words written out from the encodings of the spec -/

-- R91: {rst, start} = 10, 11, 01, 00.
theorem test_decode_cmd : decode ⟨.cmd, 0b10⟩ = .ok (.construct false) ∧ decode ⟨.cmd, 0b11⟩ = .ok (.construct true) ∧
    decode ⟨.cmd, 0b01⟩ = .ok .write ∧ decode ⟨.cmd, 0b00⟩ = .ok .nop := by decide
-- R92, R55: {px_valid, px_end} = 10 with px_data = 0x123456, 11 and 01, 00.
theorem test_decode_pxr : decode ⟨.pxr, 0b00010010_00110100_01010110_10⟩ = .ok (.fetchSome 0x123456) ∧
    decode ⟨.pxr, 0b11⟩ = .ok (.fetchNone true) ∧ decode ⟨.pxr, 0b01⟩ = .ok (.fetchNone false) ∧
    decode ⟨.pxr, 0b00⟩ = .ok .fetchWait := by decide
-- R93: {tick, tick_err} = 10, 01, 11; 00 is no event.
theorem test_decode_tkr : decode ⟨.tkr, 0b10⟩ = .ok (.tick true false) ∧ decode ⟨.tkr, 0b01⟩ = .ok (.tick false true) ∧
    decode ⟨.tkr, 0b11⟩ = .ok (.tick true true) ∧ decode ⟨.tkr, 0b00⟩ = .ok .nop := by decide
-- R101: selector {PROFILE, SH[7]}, STD = 0, SLOW = 1.
theorem test_decode_sym : decode ⟨.sym, 0b01⟩ = .ok .bit1Std ∧ decode ⟨.sym, 0b00⟩ = .ok .bit0Std ∧
    decode ⟨.sym, 0b11⟩ = .ok .bit1Slow ∧ decode ⟨.sym, 0b10⟩ = .ok .bit0Slow := by decide
-- R84: one bit per symbol, v[7] first.
theorem test_decode_byte8 : decode ⟨.byte8, 0b10100101⟩ = .ok (.byte 0xA5) := by decide
-- R85: green, red, blue in the order sent; T5's pixel.
theorem test_decode_pixw : decode ⟨.pixw, 0b00110100_00010010_01010110⟩ = .ok (.pixel 0x12 0x34 0x56) := by decide
-- R87: 900 slots of low.
theorem test_decode_latch : decode ⟨.frame, 0⟩ = .ok .latch ∧ decode ⟨.frame, 4⟩ = .error .latchNotLow := by decide
theorem test_decode_tooWide : decode ⟨.cmd, 4⟩ = .error (.tooWide .cmd) ∧ decode ⟨.byte8, 256⟩ = .error (.tooWide .byte8) := by
  decide
-- Log 6: the table's words as the host places them.
theorem test_decodeTableWord : decodeTableWord 8 0b10 = some (.construct false) ∧ decodeTableWord 8 0b01 = some .write ∧
    decodeTableWord 8 0b00 = some .nop ∧ decodeTableWord 8 0x34 = some (.byte 0x34) ∧
    decodeTableWord 24 0x341256 = some (.pixel 0x12 0x34 0x56) ∧ decodeTableWord 904 0 = some .latch := by decide

/-! ### One step each -/

-- H1: CONSTRUCT in an arbitrary state.
theorem test_construct : ((nextOf (exec (.construct true) lastBitS)).map fun t =>
    (t.blk.dout, t.blk.mode, t.blk.ticks, t.obs.outs)) = some (.low, .idle, 0, [.pin .low]) := by decide
-- F1: the pixel 0x123456 of T5 on offer.
theorem test_write_some : blkOf (exec .write (setOffer [⟨true, false, 0x123456⟩] idleS)) =
    some { idleBlk with r := 0x12, g := 0x34, b := 0x56, sh := 0x34, mode := .shift, chan := 0, bitIdx := 0, phase := 0,
                        ticks := 0, log := [] } := by decide
-- P1: the empty source.
theorem test_write_none : blkOf (exec .write idleS) = some { idleBlk with mode := .latch, latchCnt := 900, ticks := 0, log := [] } := by
  decide
-- H5.
theorem test_nop : nextOf (exec .nop lastBitS) = some lastBitS := by decide
-- F13, F1.
theorem test_fetchSome : (outsOf (exec (.fetchSome 0x123456) fetchS), (blkOf (exec (.fetchSome 0x123456) fetchS)).map (·.x 3)) =
    (some [.take], some 0x34) := by decide
theorem test_fetchNone : blkOf (exec (.fetchNone true) fetchS) = some { fetchBlk with mode := .latch, latchCnt := 900 } := by decide
theorem test_fetchWait : nextOf (exec .fetchWait fetchS) = some fetchS := by decide
-- P2, tick 0.
theorem test_tick_phase0 : blkOf (exec (.tick true false) (shiftS .std 0x34)) =
    some { shiftBlk 0x34 with phase := 1, dout := .high, ticks := 1, log := [(.high, 0)] } := by decide
-- S1 to S4 at s = 0, with the shift of R131.
theorem test_bit1Std : blkOf (exec .bit1Std (setWaits [.fired, .fired, .fired] (shiftS .std 0xA5))) =
    some { shiftBlk 0xA5 with sh := 0x4A, bitIdx := 1, ticks := 3, log := [(.high, 0), (.low, 2)] } := by decide
theorem test_bit0Std : blkOf (exec .bit0Std (setWaits [.fired, .fired, .fired] (shiftS .std 0x34))) =
    some { shiftBlk 0x34 with sh := 0x68, bitIdx := 1, ticks := 3, log := [(.high, 0), (.low, 1)] } := by decide
theorem test_bit1Slow : blkOf (exec .bit1Slow (setWaits [.fired, .fired, .fired] (shiftS .slow 0xA5))) =
    some { shiftBlk 0xA5 with sh := 0x4A, bitIdx := 1, ticks := 3, log := [(.high, 0), (.low, 2)] } := by decide
theorem test_bit0Slow : blkOf (exec .bit0Slow (setWaits [.failed, .failed, .failed] (shiftS .slow 0x34))) =
    some { shiftBlk 0x34 with sh := 0x68, bitIdx := 1, ticks := 3, diagErr := some 3, log := [(.high, 0), (.low, 0)] } := by decide
-- S6: two ticks of S1 and then no more.
theorem test_bit1Std_waits : blkOf (exec .bit1Std (setWaits [.fired, .fired] (shiftS .std 0xA5))) =
    some { shiftBlk 0xA5 with phase := 2, dout := .high, ticks := 2, log := [(.high, 0)] } := by decide
-- B6: BYTE 0x34, standard.
theorem test_byte : logOf (exec (.byte 0x34) (setWaits (List.replicate 24 .fired) (shiftS .std 0x34))) =
    some [(.high, 0), (.low, 1), (.high, 3), (.low, 4), (.high, 6), (.low, 8), (.high, 9), (.low, 11), (.high, 12), (.low, 13),
      (.high, 15), (.low, 17), (.high, 18), (.low, 19), (.high, 21), (.low, 22)] := by decide
-- F1: the multiplexer after the first byte of T5's pixel.
theorem test_pixel_first_byte : (blkOf (exec (.pixel 0x12 0x34 0x56) (setWaits (List.replicate 24 .fired) (shiftS .std 0x34)))).map
    (fun b => (b.chan, b.sh, b.ticks)) = some (1, 0x12, 24) := by decide
-- F5, F6.
theorem test_latch_counts : (blkOf (exec .latch (setWaits [.fired, .failed] (latchS 900)))).map (fun b => (b.mode, b.latchCnt, b.log)) =
    some (.latch, 898, []) := by decide
theorem test_latch_last_tick : (blkOf (exec (.tick true false) (latchS 1)), outsOf (exec (.tick true false) (latchS 1))) =
    (some { latchBlk 1 with mode := .idle, latchCnt := 0, ticks := 972 }, some [.done]) := by decide

/-! ### Steps -/

-- Log 6: a table word placed as the next input is what the next step runs.
theorem test_step_withFetchWord : (nextOf (step (State.reset.withFetchWord 8 0b01))).map (fun t => t.blk.mode) = some .latch := by
  decide
-- X2: tick and start in one cycle, in IDLE.
theorem test_cycle_start : (nextOf (step (setInputs [.cycle ⟨false, true, true, false, ⟨true, false, 0x123456⟩⟩] idleS))).map
    (fun t => (t.blk.mode, t.blk.ticks, t.obs.outs)) = some (.shift, 0, [.take]) := by decide
-- X3: the last latch tick and a start in one cycle.
theorem test_cycle_last_tick : (nextOf (step (setInputs [.cycle ⟨false, true, true, false, pxNone⟩] (latchS 1)))).map
    (fun t => (t.blk.mode, t.blk.ticks, t.obs.outs)) = some (.latch, 0, [.done]) := by decide
-- X4: a tick in the cycle in which a stalled pull is answered.
theorem test_cycle_late_answer : (nextOf (step (setInputs [.cycle ⟨false, false, true, false, ⟨true, false, 0x008000⟩⟩] fetchS))).map
    (fun t => (t.blk.mode, t.blk.ticks, t.blk.sh)) = some (.shift, 72, 0x80) := by decide

/-! ### Waveforms and logs -/

-- T2, B6, B14: the wire of 0x34 in both profiles.
theorem test_byteWave : byteWave .std 0x34 =
      [.high, .low, .low, .high, .low, .low, .high, .high, .low, .high, .high, .low,
       .high, .low, .low, .high, .high, .low, .high, .low, .low, .high, .low, .low] ∧
    byteWave .slow 0x34 =
      [.pulse, .low, .low, .pulse, .low, .low, .high, .high, .low, .high, .high, .low,
       .pulse, .low, .low, .high, .high, .low, .pulse, .low, .low, .pulse, .low, .low] := by decide
-- T5: the order of the bytes.
theorem test_pixelBytes : pixelBytes ⟨0x12, 0x34, 0x56⟩ = [0x34, 0x12, 0x56] := by decide
-- P3: the first entries of the slow log of T5's pixel, and its last.
theorem test_frameLog_slow : ((frameLog .slow [⟨0x12, 0x34, 0x56⟩]).take 6, (frameLog .slow [⟨0x12, 0x34, 0x56⟩]).drop 46) =
    ([(.high, 0), (.low, 0), (.high, 3), (.low, 3), (.high, 6), (.low, 8)], [(.high, 69), (.low, 69)]) := by decide

/-! ### Witnesses: for each obligation with hypotheses, states and operands that meet all of them together -/

/-- The ticks of a run, as events. -/
def tickEvs (n : Nat) : List Input := List.replicate n (.word ⟨.tkr, 2⟩ [])

theorem tickEvs_isTick (n : Nat) : ∀ i ∈ tickEvs n, isTick i = true := by
  intro i hi; rw [List.eq_of_mem_replicate hi]; decide

theorem tickEvs_framesOn (n : Nat) : ∀ i ∈ tickEvs n, framesOn i = true := by
  intro i hi; rw [List.eq_of_mem_replicate hi]; decide

/-- The invariant holds in the middle of a frame: in SHIFT with the line high, in FETCH, in LATCH. -/
def highS : State :=
  mk .std { shiftBlk 0xA5 with sh := 0x94, bitIdx := 2, phase := 1, dout := .high, ticks := 7
                               log := [(.high, 0), (.low, 2), (.high, 3), (.low, 4), (.high, 6)] }
/-- FETCH after one pixel. -/
def stalledS : State := mk .slow { fetchBlk with log := [(.high, 69), (.low, 69)] }

theorem witness_Inv_shift : Inv highS := by constructor <;> decide
theorem witness_Inv_shift_end : Inv lastBitS := by constructor <;> decide
theorem witness_Inv_fetch : Inv stalledS := by constructor <;> decide
theorem witness_Inv_latch : Inv (latchS 1) ∧ Inv (latchS 2) ∧ Inv (latchS 900) := by
  refine ⟨?_, ?_, ?_⟩ <;> constructor <;> decide
theorem witness_Inv_idle : Inv idleS := by constructor <;> decide

theorem witness_DroppedInputsChangeNothing :
    idleS.blk.mode = .idle ∧ fetchS.blk.mode = .fetch ∧ highS.blk.mode ≠ .idle ∧ (latchS 1).blk.mode ≠ .fetch ∧
    (setInputs [.poll] highS).blk.mode ≠ .fetch ∧ (setInputs [.poll] highS).env.inputs = .poll :: [] := by decide
theorem witness_WriteWithAPixelStartsShifting :
    idleS.blk.mode = .idle ∧ answerOf ⟨true, false, 0x123456⟩ = .some ⟨0x12, 0x34, 0x56⟩ := by decide
theorem witness_WriteOfNothingStartsTheLatch :
    idleS.blk.mode = .idle ∧ (pixNext idleS.env.offer).1 = .none ∧ (pixNext (setOffer [⟨true, true, 5⟩] idleS).env.offer).1 = .none := by
  decide
theorem witness_WriteWithALateSourceStalls : (setOffer [pxWait] idleS).blk.mode = .idle ∧ answerOf pxWait = .notReady := by decide
theorem witness_FetchSomeCapturesThePixel : fetchS.blk.mode = .fetch := by decide
theorem witness_FetchNoneLoadsTheLatchCounter : stalledS.blk.mode = .fetch := by decide
theorem witness_FetchWaitStaysInFetch : stalledS.blk.mode = .fetch := by decide
theorem witness_FirstTickOfASymbolRaisesTheLine :
    tickKindOf true false = some .fired ∧ tickKindOf true true = some .failed ∧
    (shiftS .slow 0x34).blk.mode = .shift ∧ (shiftS .slow 0x34).blk.phase = 0 ∧ bitOut (shiftS .slow 0x34).blk = false ∧
    (shiftS .std 0xA5).blk.mode = .shift ∧ (shiftS .std 0xA5).blk.phase = 0 ∧ bitOut (shiftS .std 0xA5).blk = true := by decide
theorem witness_SecondTickLowersAStandardZero :
    tickKindOf false true = some .failed ∧ highS.blk.mode = .shift ∧ highS.blk.phase = 1 := by decide
theorem witness_ThirdTickLowersAOneAndHandsOver :
    tickKindOf true false = some .fired ∧ lastBitS.blk.mode = .shift ∧ lastBitS.blk.phase = 2 := by decide
theorem witness_BitDoneCountsBitsBytesAndPixels :
    highS.blk.bitIdx ≠ 7 ∧ lastBitS.blk.bitIdx = 7 ∧ lastBitS.blk.chan = 2 ∧
    (mk .std { lastBitBlk with chan := 0 }).blk.bitIdx = 7 ∧ (mk .std { lastBitBlk with chan := 0 }).blk.chan = 0 ∧
    (mk .std { lastBitBlk with chan := 1 }).blk.bitIdx = 7 ∧ (mk .std { lastBitBlk with chan := 1 }).blk.chan = 1 := by decide
theorem witness_PullActsOnTheAnswer :
    (setSource [pxSome ⟨1, 2, 3⟩] fetchS).env.source = pxSome ⟨1, 2, 3⟩ :: [] ∧ answerOf (pxSome ⟨1, 2, 3⟩) = .some ⟨1, 2, 3⟩ ∧
    (pixNext fetchS.env.source).1 = .none ∧ (pixNext (setSource [pxNone] fetchS).env.source).1 = .none ∧
    (setSource [pxWait] fetchS).env.source = pxWait :: [] ∧ answerOf pxWait = .notReady := by decide
theorem witness_LatchTickCountsDownToDone :
    (latchS 1).blk.mode = .latch ∧ (latchS 1).blk.latchCnt ≠ 0 ∧ (latchS 2).blk.latchCnt ≠ 1 ∧ (latchS 900).blk.latchCnt ≠ 0 := by
  decide
theorem witness_TickKindChangesOnlyTheDiagnosticCounter : Inv highS := witness_Inv_shift
theorem witness_TickMakesOnlyTheListedModeTransitions :
    Inv lastBitS ∧ exec (.tick true false) lastBitS = .next (effect (.tick true false) lastBitS) :=
  ⟨witness_Inv_shift_end, exec_eq_effect _ _⟩

/-- A state at the first tick of a symbol with `n` ticks to come. -/
def readyS (p : Profile) (v : Byte) (n : Nat) : State := setWaits (List.replicate n .fired) (shiftS p v)

theorem witness_Bit1StdIsHighTwoLowOne :
    (readyS .std 0xA5 3).blk.mode = .shift ∧ (readyS .std 0xA5 3).blk.phase = 0 ∧ (readyS .std 0xA5 3).build.profile = .std ∧
    bitOut (readyS .std 0xA5 3).blk = true ∧ (readyS .std 0xA5 3).env.waits = .fired :: .fired :: .fired :: [] := by decide
theorem witness_Bit0StdIsHighOneLowTwo :
    (readyS .std 0x34 3).blk.mode = .shift ∧ (readyS .std 0x34 3).blk.phase = 0 ∧ (readyS .std 0x34 3).build.profile = .std ∧
    bitOut (readyS .std 0x34 3).blk = false ∧ (readyS .std 0x34 3).env.waits = .fired :: .fired :: .fired :: [] := by decide
theorem witness_Bit1SlowIsHighTwoLowOne :
    (readyS .slow 0xA5 3).blk.mode = .shift ∧ (readyS .slow 0xA5 3).blk.phase = 0 ∧ (readyS .slow 0xA5 3).build.profile = .slow ∧
    bitOut (readyS .slow 0xA5 3).blk = true ∧ (readyS .slow 0xA5 3).env.waits = .fired :: .fired :: .fired :: [] := by decide
theorem witness_Bit0SlowIsAPulseThenLow :
    (readyS .slow 0x34 3).blk.mode = .shift ∧ (readyS .slow 0x34 3).blk.phase = 0 ∧ (readyS .slow 0x34 3).build.profile = .slow ∧
    bitOut (readyS .slow 0x34 3).blk = false ∧ (readyS .slow 0x34 3).env.waits = .fired :: .fired :: .fired :: [] := by decide
theorem witness_SymbolsRunTheirMicroOperationStrings :
    (readyS .slow 0x34 3).blk.mode = .shift ∧ (readyS .slow 0x34 3).blk.phase = 0 ∧
    Config.ticksPerBit ≤ (readyS .slow 0x34 3).env.waits.length := by decide
theorem witness_UnselectedOperationsChangeNothing :
    idleS.blk.mode ≠ .shift ∧ highS.blk.phase ≠ 0 ∧ (shiftS .slow 0).build.profile ≠ .std ∧ (shiftS .std 0).build.profile ≠ .slow ∧
    bitOut (shiftS .std 0).blk = false ∧ bitOut (shiftS .std 0x80).blk = true ∧ highS.blk.bitIdx ≠ 0 ∧ lastBitS.blk.chan ≠ 0 ∧
    (latchS 899).blk.latchCnt ≠ 900 := by decide
theorem witness_ByteSendsEightSymbolsMsbFirst :
    (readyS .std 0x34 24).blk.mode = .shift ∧ (readyS .std 0x34 24).blk.phase = 0 ∧ (readyS .std 0x34 24).blk.bitIdx = 0 ∧
    (readyS .std 0x34 24).blk.sh = 0x34 ∧ 24 ≤ (readyS .std 0x34 24).env.waits.length := by decide
theorem witness_PixelSendsGreenRedBlue :
    (readyS .std 0x34 72).blk.mode = .shift ∧ (readyS .std 0x34 72).blk.phase = 0 ∧ (readyS .std 0x34 72).blk.bitIdx = 0 ∧
    (readyS .std 0x34 72).blk.chan = 0 ∧ (readyS .std 0x34 72).blk.r = 0x12 ∧ (readyS .std 0x34 72).blk.g = 0x34 ∧
    (readyS .std 0x34 72).blk.b = 0x56 ∧ (readyS .std 0x34 72).blk.sh = 0x34 ∧ 72 ≤ (readyS .std 0x34 72).env.waits.length := by
  decide
theorem witness_LatchWaitsNineHundredTicks :
    (latchS 900).blk.mode = .latch ∧ (latchS 900).blk.latchCnt = 900 ∧
    900 ≤ (setWaits (List.replicate 900 .fired) (latchS 900)).env.waits.length := by
  refine ⟨rfl, rfl, ?_⟩
  rw [setWaits, List.length_replicate]
theorem witness_OperationsWaitWhereTheTicksStop :
    symbolReady .std true (readyS .std 0xA5 2) = true ∧ 2 = (readyS .std 0xA5 2).env.waits.length ∧
    symbolReady .std false (readyS .std 0x34 0) = true ∧ 0 = (readyS .std 0x34 0).env.waits.length ∧
    symbolReady .slow true (readyS .slow 0xA5 3) = true ∧ 3 = (readyS .slow 0xA5 3).env.waits.length ∧
    symbolReady .slow false (readyS .slow 0x34 1) = true ∧ byteReady 0x34 (readyS .std 0x34 24) = true ∧
    pixelReady 0x12 0x34 0x56 (readyS .std 0x34 25) = true ∧ latchReady (latchS 900) = true := by decide
theorem witness_StepRunsTheDecodedWord :
    (setInputs [.word ⟨.cmd, 1⟩ []] idleS).env.inputs = .word ⟨.cmd, 1⟩ [] :: [] ∧ decode ⟨.cmd, 1⟩ = .ok .write ∧
    (setInputs [.word ⟨.tkr, 4⟩ []] idleS).env.inputs = .word ⟨.tkr, 4⟩ [] :: [] ∧ decode ⟨.tkr, 4⟩ = .error (.tooWide .tkr) := by decide
theorem witness_PollRunsTheSourcesAnswer :
    (setInputs [.poll] highS).env.inputs = .poll :: [] ∧ (setInputs [.poll] highS).blk.mode ≠ .fetch ∧
    (setInputs [.poll] stalledS).blk.mode = .fetch ∧ (setInputs [.poll] stalledS).env.source = [] ∧
    (setSource [pxWait] (setInputs [.poll] stalledS)).env.source = pxWait :: [] := by decide
theorem witness_WithoutEventsTheBlockWaits :
    highS.env.inputs = [] ∧ (setInputs (tickEvs 5) idleS).blk.mode = .idle ∧
    ∀ i ∈ (setInputs (tickEvs 5) idleS).env.inputs, framesOn i = true :=
  ⟨rfl, rfl, tickEvs_framesOn 5⟩
theorem witness_ClockCycleOrdersItsInputs :
    (setInputs [.cycle ⟨true, true, false, false, pxWait⟩] highS).env.inputs = .cycle ⟨true, true, false, false, pxWait⟩ :: [] ∧
    (setInputs [.cycle ⟨false, true, true, true, pxNone⟩] (latchS 1)).env.inputs = .cycle ⟨false, true, true, true, pxNone⟩ :: [] := by
  decide
theorem witness_DecodeEncodeIsIdentity : (Instr.tick true true).wf = true ∧ (Instr.pixel 0xFF 0 0x80).wf = true := by decide
theorem witness_DecodeRejectsExactlyTheNonWords :
    decode ⟨.pxr, 2 ^ 26 - 1⟩ = .ok (.fetchNone true) ∧ decode ⟨.pxr, 2 ^ 26⟩ = .error (.tooWide .pxr) := by decide
theorem witness_ShiftedByteShowsItsBitsMsbFirst : 7 ≤ 7 ∧ 8 ≤ 8 ∧ (0xA5#8 <<< 7).getLsbD 7 = true ∧ 0xA5#8 <<< 8 = 0 := by decide
theorem witness_InvariantKeptByEveryStep :
    Inv (setInputs [.word ⟨.tkr, 2⟩ []] highS) ∧
    step (setInputs [.word ⟨.tkr, 2⟩ []] highS) =
      .next (effect (.tick true false) { highS with env := { highS.env with inputs := [], offer := [] } }) :=
  ⟨by constructor <;> decide, step_word rfl rfl⟩
theorem witness_BuildParametersAreNeverWritten :
    exec .write idleS = .next (effect .write idleS) ∧ step idleS = .next idleS := ⟨exec_eq_effect _ _, step_nil rfl⟩
theorem witness_PixelRegistersChangeOnlyWithTake :
    (∀ b, Instr.fetchSome 0x123456 ≠ .construct b) ∧
    exec (.fetchSome 0x123456) fetchS = .next (effect (.fetchSome 0x123456) fetchS) := by
  exact ⟨fun b h => (by cases h), exec_eq_effect _ _⟩
theorem witness_TicksCountsConsumedTicks :
    Inv highS ∧ exec (.tick false true) highS = .next (effect (.tick false true) highS) ∧
    Inv idleS ∧ exec .write idleS = .next (effect .write idleS) :=
  ⟨witness_Inv_shift, exec_eq_effect _ _, witness_Inv_idle, exec_eq_effect _ _⟩
/-- Two idle states with other stale values: they agree on what is not unspecified. -/
theorem witness_UnspecifiedRegistersAreNeverRead :
    LiveEq idleS (mk .std { idleBlk with r := 1, g := 2, b := 3, sh := 4, chan := 0, bitIdx := 0, phase := 2, latchCnt := 900 }) := by
  constructor <;> decide
theorem witness_FrameHasItsClosedForm :
    idleS.blk.mode = .idle ∧ idleS.blk.dout = .low ∧
    (setInputs (.word ⟨.cmd, 1⟩ ([⟨1, 2, 3⟩].map pxSome ++ pxNone :: []) :: tickEvs 972) idleS).env.inputs =
      .word ⟨.cmd, 1⟩ ([⟨1, 2, 3⟩].map pxSome ++ pxNone :: []) :: tickEvs 972 ∧
    (tickEvs 972).length = 72 * [(⟨1, 2, 3⟩ : Pixel)].length + 900 ∧ (∀ i ∈ tickEvs 972, isTick i = true) :=
  ⟨rfl, rfl, rfl, by rw [tickEvs, List.length_replicate]; rfl, tickEvs_isTick 972⟩

/-- Ticks in LATCH until the last one: the frame has ended. -/
theorem run_latch_ends (n : Nat) (s : State) (hm : s.blk.mode = .latch) (hc : s.blk.latchCnt.val = n + 1)
    (hi : s.env.inputs = tickEvs (n + 1)) : ∃ t, core.run (n + 1) s = .next t ∧ t.blk.mode = .idle := by
  induction n generalizing s with
  | zero =>
    obtain ⟨off, k, h⟩ := step_isTick (rest := []) hi rfl
    exact ⟨_, run_succ h, by rw [tickStep_latch (by exact hm), latchStep_last (by exact hc)]⟩
  | succ n ih =>
    obtain ⟨off, k, h⟩ := step_isTick (rest := tickEvs (n + 1)) hi rfl
    rw [run_succ h, tickStep_latch (by exact hm), latchStep_more (by simp; omega)]
    exact ih _ (by exact hm) (by simp [predLatch]; omega) rfl

theorem witness_FrameLogDependsOnlyOnPixelsAndProfile :
    ∃ t, (setInputs (.word ⟨.cmd, 1⟩ [] :: tickEvs 900) idleS).blk.mode = .idle ∧
      (setInputs (.word ⟨.cmd, 1⟩ [] :: tickEvs 900) idleS).blk.dout = .low ∧ (∀ i ∈ tickEvs 900, framesOn i = true) ∧
      core.run (1 + 900) (setInputs (.word ⟨.cmd, 1⟩ [] :: tickEvs 900) idleS) = .next t ∧ t.blk.mode = .idle := by
  have hs : step (setInputs (.word ⟨.cmd, 1⟩ [] :: tickEvs 900) idleS) = .next (effect .write
      { setInputs (.word ⟨.cmd, 1⟩ [] :: tickEvs 900) idleS with
        env := { idleS.env with inputs := tickEvs 900, offer := [] } }) := step_word rfl rfl
  obtain ⟨t, h, hm⟩ := run_latch_ends 899 (effect .write
      { setInputs (.word ⟨.cmd, 1⟩ [] :: tickEvs 900) idleS with
        env := { idleS.env with inputs := tickEvs 900, offer := [] } }) rfl rfl rfl
  exact ⟨t, rfl, rfl, tickEvs_framesOn 900, by rw [Nat.add_comm, run_succ hs, h], hm⟩
theorem witness_EmptyFrameIsTheLatchAlone :
    idleS.blk.mode = .idle ∧
    (setInputs (.word ⟨.cmd, 1⟩ [] :: tickEvs 900) idleS).env.inputs = .word ⟨.cmd, 1⟩ [] :: tickEvs 900 ∧
    (tickEvs 900).length = 900 ∧ (∀ i ∈ tickEvs 900, isTick i = true) :=
  ⟨rfl, rfl, by rw [tickEvs, List.length_replicate], tickEvs_isTick 900⟩
theorem witness_FrameIsItsComposedOperations :
    idleS.blk.mode = .idle ∧ (setOffer ([⟨1, 2, 3⟩].map pxSome) idleS).env.offer = [⟨1, 2, 3⟩].map pxSome ∧
    72 * [(⟨1, 2, 3⟩ : Pixel)].length + 900 ≤ (setWaits (List.replicate 972 .fired) idleS).env.waits.length :=
  ⟨rfl, rfl, by rw [setWaits, List.length_replicate]; decide⟩
/-- Both builds, from reset, a poll and a tick in IDLE, then one pixel. -/
theorem witness_EitherBuildSendsItsFrameFromReset :
    (∀ i ∈ [Input.poll, .word ⟨.tkr, 2⟩ []], framesOn i = true) ∧
    (tickEvs 972).length = 72 * [(⟨1, 2, 3⟩ : Pixel)].length + 900 ∧ (∀ i ∈ tickEvs 972, isTick i = true) :=
  ⟨by decide, by rw [tickEvs, List.length_replicate]; rfl, tickEvs_isTick 972⟩
-- The machine of the slow build, from its reset: S4, the first tick of a frame whose first bit is 0.
theorem test_machine_slow_from_reset : (match (machine .slow).run 2 { Body.reset with env := { Body.reset.env with
      inputs := [.word ⟨.cmd, 1⟩ [⟨true, false, 0x123456⟩], .word ⟨.tkr, 2⟩ []] } } with
    | .next (t : Body) => t.blk.log
    | .fault _ => []
    | .refused _ => []) = [(.high, 0), (.low, 0)] := by decide

end Sys2Proof.Tests
end

section
/-! Proofs of the scope family: the word a step runs, the build parameters, the two builds, the symbols' strings, and
the frame of either build from reset. -/

namespace Sys2Proof
namespace Machine

/-! ### The decoded word -/

/-- Settles O29: the word's two answers of the decoder, each with the step that follows from it. -/
theorem stepRunsTheDecodedWord : Obligations.StepRunsTheDecodedWord := by
  intro s w src rest h
  exact ⟨fun i hd => by rw [step_word h hd, exec_eq_effect], fun e hd => step_badWord h hd⟩

/-! ### Build parameters -/

/-- `HAS_DIAG` depends on nothing but the counter. -/
theorem hasDiag_eq_of_diagErr {s t : State} (h : t.blk.diagErr = s.blk.diagErr) : hasDiag t = hasDiag s := by
  simp only [hasDiag, h]

/-- A failed tick counts where there is a counter, and makes none (R37, R186). -/
@[simp] theorem countFailed_isSome (k : TickKind) (d : Option Nat) : (countFailed k d).isSome = d.isSome := by
  cases k <;> simp [countFailed]

@[simp] theorem pinLowIf_diagErr (c : Bool) (s : State) : (pinLowIf c s).blk.diagErr = s.blk.diagErr := by
  cases c <;> rfl

/-- `Reset` clears the counter where there is one (R170). -/
@[simp] theorem hasDiag_resetStep (s : State) : hasDiag (resetStep s) = hasDiag s := by
  simp [hasDiag]

@[simp] theorem hasDiag_fetch (s : State) : hasDiag (fetch s) = hasDiag s :=
  hasDiag_eq_of_diagErr (fetch_diagErr s)

@[simp] theorem hasDiag_startStep (s : State) : hasDiag (startStep s) = hasDiag s := by
  by_cases h : s.blk.mode = .idle
  · rw [startStep_idle h, hasDiag_fetch]; rfl
  · rw [startStep_busy h]

@[simp] theorem hasDiag_answerStep (a : Answer) (s : State) : hasDiag (answerStep a s) = hasDiag s := by
  by_cases h : s.blk.mode = .fetch
  · rw [answerStep_fetch h]; cases a <;> rfl
  · rw [answerStep_other h]

@[simp] theorem hasDiag_bitStep (p : Profile) (k : TickKind) (s : State) : hasDiag (bitStep p k s) = hasDiag s := by
  obtain h | h | h := phase_cases s.blk.phase
  · simp [hasDiag, bitStep_phase0 h]
  · simp [hasDiag, bitStep_phase1 h]
  · simp [hasDiag, bitStep_phase2 h]

@[simp] theorem hasDiag_latchStep (k : TickKind) (s : State) : hasDiag (latchStep k s) = hasDiag s := by
  obtain h | h | h : s.blk.latchCnt.val = 0 ∨ s.blk.latchCnt.val = 1 ∨ 1 < s.blk.latchCnt.val := by omega
  · rw [latchStep_zero h]
  · simp [hasDiag, latchStep_last h]
  · simp [hasDiag, latchStep_more h]

@[simp] theorem hasDiag_tickStep (p : Profile) (k : TickKind) (s : State) : hasDiag (tickStep p k s) = hasDiag s := by
  cases h : s.blk.mode with
  | idle => rw [tickStep_idle h]
  | fetch => rw [tickStep_fetch h]
  | shift => rw [tickStep_shift h, hasDiag_bitStep]
  | latch => rw [tickStep_latch h, hasDiag_latchStep]

/-- No operation adds or removes the counter. -/
@[simp] theorem hasDiag_effect (i : Instr) (s : State) : hasDiag (effect i s) = hasDiag s :=
  effect_induction (P := fun u => hasDiag u = hasDiag s) (fun _ _ h => h)
    (fun u h => by rw [hasDiag_resetStep, h]) (fun u h => by rw [hasDiag_startStep, h])
    (fun a u h => by rw [hasDiag_answerStep, h]) (fun k u h => by rw [hasDiag_tickStep, h]) i s rfl

/-- No step writes a parameter of the build. -/
theorem step_keeps_build_and_hasDiag {s t : State} (h : step s = .next t) :
    t.build = s.build ∧ hasDiag t = hasDiag s :=
  step_induction (P := fun u => u.build = s.build ∧ hasDiag u = hasDiag s) (fun _ _ h => h)
    (fun u h => by simpa using h) (fun u h => by simpa using h) (fun a u h => by simpa using h)
    (fun u h _ => by simpa using h) (fun k u h => by simpa using h) ⟨rfl, rfl⟩ h

/-- Settles O43: every shared operation keeps the build and the presence of the counter, so every operation and every
step does. -/
theorem buildParametersAreNeverWritten : Obligations.BuildParametersAreNeverWritten := by
  refine ⟨fun i s t h => ?_, fun s t h => step_keeps_build_and_hasDiag h⟩
  rw [exec_eq_effect] at h
  cases h
  exact ⟨effect_build i s, hasDiag_effect i s⟩

/-! ### The machine of one build -/

/-- A step of the host's core is the step of the machine of its build. -/
theorem step_under (p : Profile) (b : Body) : step (b.under p) = underOutcome p (stepOf p b) := by
  have h : stepOf (b.under p).build.profile (b.under p).toBody = stepOf p b := rfl
  rw [step, h]
  cases stepOf p b <;> rfl

/-- A run of the host's core is the run of the machine of its build. -/
theorem run_under (p : Profile) (n : Nat) (b : Body) :
    core.run n (b.under p) = underOutcome p ((machine p).run n b) := by
  induction n generalizing b with
  | zero => rfl
  | succ n ih =>
    have hstep : core.step (b.under p) = underOutcome p ((machine p).step b) := step_under p b
    simp only [Host.Core.run, hstep]
    cases (machine p).step b with
    | next c => exact ih c
    | fault r => rfl
    | refused r => rfl

/-- Settles O55, by induction on the number of steps. -/
theorem coreIsTheMachineOfItsBuild : Obligations.CoreIsTheMachineOfItsBuild :=
  run_under

/-- Where the core goes on with the build beside its state, the machine of the build goes on with the state proper. -/
theorem machine_run_of_core_run {p : Profile} {n : Nat} {b : Body} {t : State} (h : core.run n (b.under p) = .next t) :
    (machine p).run n b = .next t.toBody := by
  rw [run_under] at h
  cases hr : (machine p).run n b with
  | next c => rw [hr] at h; cases h; rfl
  | fault r => rw [hr] at h; cases h
  | refused r => rw [hr] at h; cases h

/-! ### Symbols and their strings -/

/-- The string of a symbol takes three ticks and makes the two pin operations of its closed form (R100, R119). -/
theorem runMicro_symbolMicro {s : State} (p : Profile) (v : Bool) (hw : 3 ≤ s.env.waits.length) :
    runMicro (symbolMicro p v) s = afterWire 3 (symbolLog p v s.blk.ticks) s := by
  match h : s.env.waits, hw with
  | k₁ :: k₂ :: k₃ :: ks, _ =>
    cases p <;> cases v <;>
      simp [symbolMicro, runMicro, h, pin, emit, consumeTick, afterWire, symbolLog, toff, pinsOf, countFails,
        Config.t1hStd, Config.t0hStd, Config.t1hSlow, Config.t0hSlow]

/-- The symbol that is ready runs its three ticks. -/
theorem symbol_ready {s : State} {p : Profile} {v : Bool} (h : symbolReady p v s = true) :
    symbol p v s = runTicks p 3 s := if_pos h

/-- The symbol selected by {`PROFILE`, `SH[7]`} (R101, R110). -/
def selectedSymbol : Profile → Bool → Instr
  | .std, true => .bit1Std
  | .std, false => .bit0Std
  | .slow, true => .bit1Slow
  | .slow, false => .bit0Slow

/-- The selected symbol is the operation that `symbol` gives its meaning. -/
theorem exec_selectedSymbol (p : Profile) (v : Bool) (s : State) :
    exec (selectedSymbol p v) s = .next (symbol p v s) := by
  cases p <;> cases v <;> rfl

/-- At the first tick of a symbol, the selected symbol runs its three ticks. -/
theorem exec_selectedSymbol_ready {s : State} (hm : s.blk.mode = .shift) (hp : s.blk.phase = 0) :
    exec (selectedSymbol s.build.profile (bitOut s.blk)) s = .next (runTicks s.build.profile 3 s) := by
  rw [exec_selectedSymbol, symbol_ready (by simp [symbolReady, hm, hp])]

/-- Settles O22: the ticks of the symbol and its string both make the symbol's two entries of the closed form. -/
theorem symbolsRunTheirMicroOperationStrings : Obligations.SymbolsRunTheirMicroOperationStrings := by
  intro s hm hp hw
  have hw : 3 ≤ s.env.waits.length := hw
  rw [runMicro_symbolMicro _ _ hw, ← runTicks_symbol hm hp hw]
  exact exec_selectedSymbol_ready hm hp

/-! ### Bytes and pixels of ticks -/

/-- The block at the first bit of the byte in wire position `c`, with `v` in `SH`. -/
def atByte (c : Fin 3) (v : Byte) (s : State) : State :=
  { s with blk := { s.blk with chan := c, sh := v, bitIdx := 0 } }

@[simp] theorem atByte_waits (c : Fin 3) (v : Byte) (s : State) : (atByte c v s).env.waits = s.env.waits := rfl
@[simp] theorem atByte_chan (c : Fin 3) (v : Byte) (s : State) : (atByte c v s).blk.chan = c := rfl
@[simp] theorem atByte_sh (c : Fin 3) (v : Byte) (s : State) : (atByte c v s).blk.sh = v := rfl
@[simp] theorem atByte_ticks (c : Fin 3) (v : Byte) (s : State) : (atByte c v s).blk.ticks = s.blk.ticks := rfl
@[simp] theorem atByte_atByte (c d : Fin 3) (v w : Byte) (s : State) : atByte c v (atByte d w s) = atByte c v s := rfl
@[simp] theorem atByte_afterWire (c : Fin 3) (v : Byte) (n : Nat) (log : List (Level × Nat)) (s : State) :
    atByte c v (afterWire n log s) = afterWire n log (atByte c v s) := rfl

/-- The ticks of a whole byte: its eight symbols, then `ByteDone` (R130, R132). -/
theorem runTicks_byte {p : Profile} {s : State} (hm : s.blk.mode = .shift) (hp : s.blk.phase = 0)
    (hb : s.blk.bitIdx = 0) (hw : 24 ≤ s.env.waits.length) :
    runTicks p 24 s =
      byteDone (afterWire 24 (bitsLog p s.blk.ticks (byteBits s.blk.sh)) (atByte s.blk.chan 0 s)) := by
  have hsh : s.blk.sh <<< 8 = 0 := BitVec.shiftLeft_eq_zero (by omega)
  rw [← hsh]
  exact runTicks_bits 7 le_rfl s hm hp (by simp [hb]) hw

/-- Ticks that begin with a whole first or second byte: after it the next channel byte is loaded (R89, R144). -/
theorem runTicks_byte_add {p : Profile} {s : State} (n : Nat) (hm : s.blk.mode = .shift) (hp : s.blk.phase = 0)
    (hb : s.blk.bitIdx = 0) (hc : s.blk.chan.val < 2) (hw : 24 ≤ s.env.waits.length) :
    runTicks p (24 + n) s = runTicks p n (afterWire 24 (bitsLog p s.blk.ticks (byteBits s.blk.sh))
      (atByte (s.blk.chan + 1) (channelByte s.blk (s.blk.chan + 1)) s)) := by
  rw [runTicks_add, runTicks_byte hm hp hb hw, byteDone_next (by exact hc)]
  simp only [channelByte_eq]
  rfl

/-- The bytes of a pixel on the wire, one after the other, from slot `t` (R53, R85). -/
theorem bitsLog_pixelBits (p : Profile) (t : Nat) (x : Pixel) :
    bitsLog p t (pixelBits x) =
      bitsLog p t (byteBits x.g) ++ (bitsLog p (t + 24) (byteBits x.r) ++ bitsLog p (t + 24 + 24) (byteBits x.b)) := by
  have h : pixelBits x = byteBits x.g ++ (byteBits x.r ++ byteBits x.b) := by simp [pixelBits, pixelBytes]
  rw [h, bitsLog_append, bitsLog_append]
  rfl

/-- The ticks of a whole pixel: its bytes in wire order, then the next pull (R145, R53). -/
theorem runTicks_pixel {p : Profile} {s : State} (hm : s.blk.mode = .shift) (hp : s.blk.phase = 0)
    (hb : s.blk.bitIdx = 0) (hc : s.blk.chan = 0) (hg : s.blk.sh = s.blk.g) (hw : 72 ≤ s.env.waits.length) :
    runTicks p 72 s = fetch (afterWire 72 (bitsLog p s.blk.ticks (pixelBits ⟨s.blk.r, s.blk.g, s.blk.b⟩))
      { s with blk := { s.blk with sh := 0, bitIdx := 0, chan := 0, mode := .fetch } }) := by
  rw [show 72 = 24 + (24 + 24) from rfl, runTicks_byte_add _ hm hp hb (by simp [hc]) (by omega),
    runTicks_byte_add _ (by exact hm) (by exact hp) rfl (by simp [hc]) (by simp; omega),
    runTicks_byte (by exact hm) (by exact hp) rfl (by simp; omega), byteDone_last (by simp [hc]),
    bitsLog_pixelBits, ← afterWire_afterWire, ← afterWire_afterWire]
  simp only [hc, hg, atByte_afterWire, atByte_atByte, atByte_chan, afterWire_chan, atByte_sh, afterWire_sh,
    afterWire_ticks, atByte_ticks, channelByte_eq]
  rfl

/-! ### A frame of ticks -/

/-- The outputs of the pixels pulled and sent from slot `t`, and of the latch that ends the frame (R147, R154). -/
def frameOuts (p : Profile) : Nat → List Pixel → List Output
  | _, [] => [.done]
  | t, x :: xs => .take :: (pinsOf (bitsLog p t (pixelBits x)) ++ frameOuts p (t + 72) xs)

/-- The pins of a log count as no other output. -/
theorem countOut_pinsOf {o : Output} (ho : ∀ l, o ≠ .pin l) (log : List (Level × Nat)) :
    countOut o (pinsOf log) = 0 := by
  simp [countOut, pinsOf, List.countP_eq_zero, (ho _).symm]

/-- Beside its pins, a pixel makes one `Take` (R147). -/
theorem countOut_frameOuts_cons {o : Output} (ho : ∀ l, o ≠ .pin l) (p : Profile) (t : Nat) (x : Pixel)
    (xs : List Pixel) :
    countOut o (frameOuts p t (x :: xs)) = countOut o [.take] + countOut o (frameOuts p (t + 72) xs) := by
  have happend : ∀ as bs, countOut o (as ++ bs) = countOut o as + countOut o bs := fun _ _ => List.countP_append
  have hcons : frameOuts p t (x :: xs) =
    [.take] ++ (pinsOf (bitsLog p t (pixelBits x)) ++ frameOuts p (t + 72) xs) := rfl
  rw [hcons, happend, happend, countOut_pinsOf ho, Nat.zero_add]

/-- One `Take` per pixel (R147). -/
theorem countOut_take_frameOuts (p : Profile) (t : Nat) (ps : List Pixel) :
    countOut .take (frameOuts p t ps) = ps.length := by
  induction ps generalizing t with
  | nil => rfl
  | cons x xs ih => rw [countOut_frameOuts_cons (by simp), ih, List.length_cons, Nat.add_comm]; rfl

/-- One `Done` per frame (R147). -/
theorem countOut_done_frameOuts (p : Profile) (t : Nat) (ps : List Pixel) :
    countOut .done (frameOuts p t ps) = 1 := by
  induction ps generalizing t with
  | nil => rfl
  | cons x xs ih => rw [countOut_frameOuts_cons (by simp), ih]; rfl

/-- The part of a frame's closed form from slot `t`, pixel by pixel (R154). -/
theorem bitsLog_frameBits_cons (p : Profile) (t : Nat) (x : Pixel) (xs : List Pixel) :
    bitsLog p t (frameBits (x :: xs)) = bitsLog p t (pixelBits x) ++ bitsLog p (t + 72) (frameBits xs) :=
  bitsLog_append p t (pixelBits x) (frameBits xs)

/-- What a frame of the pixels `ps`, pulled from `s` on, has done by its end `t` (R154, R147); `rest` is what the
source then has left. -/
structure FrameDone (p : Profile) (ps : List Pixel) (rest : List PxWord) (s t : State) : Prop where
  mode : t.blk.mode = .idle
  dout : t.blk.dout = .low
  ticks : t.blk.ticks = s.blk.ticks + (72 * ps.length + 900)
  log : t.blk.log = s.blk.log ++ bitsLog p s.blk.ticks (frameBits ps)
  source : t.env.source = rest
  outs : t.obs.outs = s.obs.outs ++ frameOuts p s.blk.ticks ps

/-- A pull that finds no pixel, and the latch interval (R146, R152). -/
theorem frameDone_latch {p : Profile} {s : State} (hd : s.blk.dout = .low) (hs : (pixNext s.env.source).1 = .none)
    (hw : 900 ≤ s.env.waits.length) :
    FrameDone p [] (pixNext s.env.source).2 s (runTicks p 900 (fetch s)) := by
  rw [fetch_none hs, runTicks_latch 899 _ rfl rfl (by exact hw)]
  exact ⟨rfl, hd, rfl, (List.append_nil _).symm, rfl, rfl⟩

/-- The state in which the pull after the pixel `x` is made: `x` has been taken from the source, which has `ws` left,
and its 72 ticks have sent it (R145). -/
def afterPixel (p : Profile) (x : Pixel) (ws : List PxWord) (s : State) : State :=
  afterWire 72 (bitsLog p s.blk.ticks (pixelBits x))
    { s with
      env := { s.env with source := ws }
      blk := { s.blk with mode := .fetch, chan := 0, bitIdx := 0, phase := 0, r := x.r, g := x.g, b := x.b, sh := 0 }
      obs := { s.obs with outs := s.obs.outs ++ [.take] } }

@[simp] theorem afterPixel_waits (p : Profile) (x : Pixel) (ws : List PxWord) (s : State) :
    (afterPixel p x ws s).env.waits = s.env.waits.drop 72 := rfl
@[simp] theorem afterPixel_ticks (p : Profile) (x : Pixel) (ws : List PxWord) (s : State) :
    (afterPixel p x ws s).blk.ticks = s.blk.ticks + 72 := rfl
@[simp] theorem afterPixel_log (p : Profile) (x : Pixel) (ws : List PxWord) (s : State) :
    (afterPixel p x ws s).blk.log = s.blk.log ++ bitsLog p s.blk.ticks (pixelBits x) := rfl
@[simp] theorem afterPixel_outs (p : Profile) (x : Pixel) (ws : List PxWord) (s : State) :
    (afterPixel p x ws s).obs.outs =
      s.obs.outs ++ [.take] ++ pinsOf (bitsLog p s.blk.ticks (pixelBits x)) := rfl

/-- A pull that takes a pixel, and the 72 ticks that send it (R143, R145). -/
theorem runTicks_fetch_pixel {p : Profile} {s : State} {x : Pixel} {ws : List PxWord} (n : Nat)
    (hs : s.env.source = pxSome x :: ws) (hw : 72 ≤ s.env.waits.length) :
    runTicks p (72 + n) (fetch s) = runTicks p n (fetch (afterPixel p x ws s)) := by
  rw [fetch_some hs (answerOf_pxSome x), runTicks_add, runTicks_pixel rfl rfl rfl rfl rfl (by exact hw)]
  rfl

/-- A frame whose source gives `ps` at once and then `None`, from its first pull on: `72N + 900` ticks (R150, R154). -/
theorem frameDone_runTicks {p : Profile} {last : List PxWord} (hlast : (pixNext last).1 = .none) (ps : List Pixel)
    {s : State} (hd : s.blk.dout = .low) (hs : s.env.source = ps.map pxSome ++ last)
    (hw : 72 * ps.length + 900 ≤ s.env.waits.length) :
    FrameDone p ps (pixNext last).2 s (runTicks p (72 * ps.length + 900) (fetch s)) := by
  induction ps generalizing s with
  | nil =>
    obtain rfl : s.env.source = last := hs
    exact frameDone_latch hd hlast (by simpa using hw)
  | cons x xs ih =>
    have hlen : 72 * (x :: xs).length + 900 = 72 + (72 * xs.length + 900) := by simp only [List.length_cons]; omega
    have hs : s.env.source = pxSome x :: (xs.map pxSome ++ last) := hs
    rw [hlen] at hw ⊢
    rw [runTicks_fetch_pixel _ hs (by omega)]
    have hw' : 72 * xs.length + 900 ≤ (afterPixel p x (xs.map pxSome ++ last) s).env.waits.length := by
      rw [afterPixel_waits, List.length_drop]
      exact Nat.le_sub_of_add_le' hw
    obtain ⟨hmode, hdout, hticks, hlog, hsource, houts⟩ :=
      ih (s := afterPixel p x (xs.map pxSome ++ last) s) rfl rfl hw'
    refine ⟨hmode, hdout, ?_, ?_, hsource, ?_⟩
    · rw [hticks, hlen, afterPixel_ticks, Nat.add_assoc]
    · rw [hlog, bitsLog_frameBits_cons, afterPixel_log, afterPixel_ticks, List.append_assoc]
    · simp [houts, frameOuts]

/-! ### From reset to the end of the frame -/

/-- A run in two parts. -/
theorem run_add {m : Nat} {s t : State} (h : core.run m s = .next t) (n : Nat) :
    core.run (m + n) s = core.run n t := by
  induction m generalizing s with
  | zero => cases h; rw [Nat.zero_add]
  | succ m ih =>
    cases hs : step s with
    | next u =>
      rw [run_succ hs] at h
      rw [Nat.succ_add, run_succ hs, ih h]
    | fault r => cases r
    | refused r =>
      have hs : core.step s = .refused r := hs
      simp only [Host.Core.run, hs] at h
      cases h

/-- In IDLE the ticks and polls of the run go by, and nothing else happens (R173, R211). -/
theorem run_idle {s : State} (evs : List Input) {rest : List Input} (hm : s.blk.mode = .idle)
    (hi : s.env.inputs = evs ++ rest) (hf : ∀ i ∈ evs, framesOn i = true) :
    ∃ off, core.run evs.length s = .next { s with env := { s.env with inputs := rest, offer := off } } := by
  induction evs generalizing s with
  | nil =>
    obtain rfl : s.env.inputs = rest := hi
    exact ⟨s.env.offer, rfl⟩
  | cons ev evs ih =>
    have hi : s.env.inputs = ev :: (evs ++ rest) := hi
    obtain ⟨off, h⟩ := step_framesOn hi (hf ev List.mem_cons_self)
    have hstep : step s = .next { s with env := { s.env with inputs := evs ++ rest, offer := off } } := by
      obtain h | ⟨k, h⟩ | ⟨hfetch, -⟩ := h
      · exact h
      · rw [h, tickStep_idle (by exact hm)]
      · rw [hm] at hfetch; cases hfetch
    rw [List.length_cons, run_succ hstep]
    exact ih (by exact hm) rfl fun i hi => hf i (List.mem_cons_of_mem _ hi)

/-- The tick-waits still to be answered are not looked at by a pull. -/
theorem fetch_setWaits (ks : List TickKind) (s : State) :
    ({ fetch s with env := { (fetch s).env with waits := ks } } : State) =
      fetch { s with env := { s.env with waits := ks } } := by
  simp only [fetch]
  cases (pixNext s.env.source).1 <;> rfl

/-- The state in which an accepted `Start` pulls: the source `src` is handed over, the ghosts are cleared, and the
events `evs` are still to come (R142). -/
def started (src : List PxWord) (evs : List Input) (s : State) : State :=
  { s with
    env := { s.env with inputs := evs, source := src, offer := [] }
    blk := { s.blk with ticks := 0, log := [], mode := .fetch } }

/-- A `WRITE` event in IDLE (R91, R142). -/
theorem step_write {s : State} {src : List PxWord} {evs : List Input} (hm : s.blk.mode = .idle)
    (hi : s.env.inputs = .word ⟨.cmd, 1⟩ src :: evs) : step s = .next (fetch (started src evs s)) := by
  rw [step_word hi (decode_cmd (by omega))]
  exact congrArg _ (startStep_idle (by exact hm))

/-- A `WRITE` in IDLE and then as many tick events as its frame has ticks: the frame, from a fresh log (R142, R154). -/
theorem run_frame {s : State} {ps : List Pixel} {last : List PxWord} {evs : List Input}
    (hm : s.blk.mode = .idle) (hd : s.blk.dout = .low) (hlast : (pixNext last).1 = .none)
    (hi : s.env.inputs = .word ⟨.cmd, 1⟩ (ps.map pxSome ++ last) :: evs)
    (hl : evs.length = 72 * ps.length + 900) (ht : ∀ i ∈ evs, isTick i = true) :
    ∃ t, core.run (1 + (72 * ps.length + 900)) s = .next t ∧ t.env.inputs = [] ∧
      FrameDone s.build.profile ps (pixNext last).2 (started (ps.map pxSome ++ last) evs s) t := by
  obtain ⟨ks, hks, t, hrun, hnil, hsame⟩ :=
    run_ticks _ (fetch_inputs (started (ps.map pxSome ++ last) evs s)) hl ht (SameBut.refl _)
  rw [fetch_setWaits, fetch_build] at hsame
  obtain ⟨-, hblk, hobs, hsource⟩ := hsame
  obtain ⟨hmode, hdout, hticks, hlog, hrest, houts⟩ := frameDone_runTicks (p := s.build.profile) hlast ps
    (s := { started (ps.map pxSome ++ last) evs s with
      env := { (started (ps.map pxSome ++ last) evs s).env with waits := ks } }) hd rfl hks.ge
  exact ⟨t, by rw [Nat.add_comm, run_succ (step_write hm hi), hrun], hnil,
    hblk ▸ hmode, hblk ▸ hdout, hblk ▸ hticks, hblk ▸ hlog, hsource ▸ hrest, hobs ▸ houts⟩

/-- The reset of the build `p`, with events to come and a source on offer. -/
def resetWith (p : Profile) (inputs : List Input) (offer : List PxWord) : State :=
  Body.under p { Body.reset with env := { Body.reset.env with inputs := inputs, offer := offer } }

/-- Settles O56: the events in IDLE go by, the frame is sent, and what the core then shows the machine of the build
shows. -/
theorem eitherBuildSendsItsFrameFromReset : Obligations.EitherBuildSendsItsFrameFromReset := by
  intro p idle ps evs hidle hl ht
  obtain ⟨off, hwait⟩ :=
    run_idle (s := resetWith p (idle ++ .word ⟨.cmd, 1⟩ (ps.map pxSome) :: evs) []) idle rfl rfl hidle
  obtain ⟨t, hrun, hnil, hmode, hdout, hticks, hlog, -, houts⟩ :=
    run_frame (s := resetWith p (.word ⟨.cmd, 1⟩ (ps.map pxSome) :: evs) off) (last := []) rfl rfl rfl
      (by rw [List.append_nil]; rfl) hl ht
  have houts : t.obs.outs = frameOuts p 0 ps := houts
  refine ⟨t.toBody, machine_run_of_core_run ((run_add hwait _).trans hrun), hmode, hdout, ?_, hlog, hnil, ?_, ?_⟩
  · rw [hticks]; exact Nat.zero_add _
  · rw [houts, countOut_take_frameOuts]
  · rw [houts, countOut_done_frameOuts]

end Machine
end Sys2Proof
end

section
/-! Proofs of the state family: the invariant of the reachable states, the registers that are never read where they
are unspecified, the diagnostic counter, the captured pixel and the tick count. -/

namespace Sys2Proof
namespace Machine

/-! ### The conditional pin, and the cases of the latch count -/

@[simp] theorem pinLowIf_r (c : Bool) (s : State) : (pinLowIf c s).blk.r = s.blk.r := by cases c <;> rfl
@[simp] theorem pinLowIf_g (c : Bool) (s : State) : (pinLowIf c s).blk.g = s.blk.g := by cases c <;> rfl
@[simp] theorem pinLowIf_b (c : Bool) (s : State) : (pinLowIf c s).blk.b = s.blk.b := by cases c <;> rfl
@[simp] theorem pinLowIf_sh (c : Bool) (s : State) : (pinLowIf c s).blk.sh = s.blk.sh := by cases c <;> rfl
@[simp] theorem pinLowIf_mode (c : Bool) (s : State) : (pinLowIf c s).blk.mode = s.blk.mode := by cases c <;> rfl
@[simp] theorem pinLowIf_chan (c : Bool) (s : State) : (pinLowIf c s).blk.chan = s.blk.chan := by cases c <;> rfl
@[simp] theorem pinLowIf_bitIdx (c : Bool) (s : State) : (pinLowIf c s).blk.bitIdx = s.blk.bitIdx := by cases c <;> rfl
@[simp] theorem pinLowIf_ticks (c : Bool) (s : State) : (pinLowIf c s).blk.ticks = s.blk.ticks := by cases c <;> rfl

theorem pinLowIf_dout (c : Bool) (s : State) : (pinLowIf c s).blk.dout = if c then .low else s.blk.dout := by
  cases c <;> rfl

/-- A count that must not be ticked, the last tick of the latch interval, or one before it. -/
theorem latchCnt_cases (c : Fin 901) : c.val = 0 ∨ c.val = 1 ∨ 1 < c.val := by omega

/-! ### The log of transitions -/

/-- A change of level continues the alternating list (R118). -/
theorem alternates_append {l d e : Level} {log : List (Level × Nat)} (n : Nat)
    (h : alternates l log d = true) (hne : e ≠ d) : alternates l (log ++ [(e, n)]) e = true := by
  induction log generalizing l with
  | nil =>
    have hl : l = d := of_decide_eq_true h
    simp [alternates, hl, hne]
  | cons x xs ih =>
    simp only [alternates, Bool.and_eq_true, List.cons_append] at h ⊢
    exact ⟨h.1, ih h.2⟩

/-- The part of the invariant that speaks of `LOG` (R34, R118). -/
def LogSound (s : State) : Prop :=
  alternates .low s.blk.log s.blk.dout = true ∧ ∀ e ∈ s.blk.log, e.2 < s.blk.ticks

theorem Inv.logSound {s : State} (h : Inv s) : LogSound s := ⟨h.logAlternates, h.logInPast⟩

theorem LogSound.consumeTick {s : State} (h : LogSound s) (k : TickKind) : LogSound (consumeTick k s) :=
  ⟨h.1, fun e he => Nat.lt_succ_of_lt (h.2 e he)⟩

/-- A pin operation that changes the level enters the tick just consumed. -/
theorem LogSound.pin {s : State} {l : Level} (h : LogSound s) (hl : l ≠ s.blk.dout) (ht : 0 < s.blk.ticks) :
    LogSound (pin l s) := by
  refine ⟨alternates_append _ h.1 hl, fun e he => ?_⟩
  obtain he | he := List.mem_append.mp he
  · exact h.2 e he
  · rw [List.mem_singleton.mp he]
    exact Nat.sub_lt ht Nat.one_pos

theorem LogSound.pinLowIf {s : State} {c : Bool} (h : LogSound s) (hc : c = true → s.blk.dout = .high)
    (ht : 0 < s.blk.ticks) : LogSound (pinLowIf c s) := by
  cases c with
  | false => exact h
  | true => exact h.pin (by rw [hc rfl]; decide) ht

/-! ### The invariant, mode by mode -/

/-- Outside SHIFT: the line is low, and each mode has its position. -/
theorem Inv.of_notShift {s : State} (hm : s.blk.mode ≠ .shift) (hd : s.blk.dout = .low) (hl : LogSound s)
    (hfetch : s.blk.mode = .fetch → s.blk.ticks % 72 = 0)
    (hlatch : s.blk.mode = .latch → s.blk.latchCnt.val ≠ 0 ∧ (s.blk.ticks + s.blk.latchCnt.val) % 72 = 900 % 72) :
    Inv s where
  lowOutsideShift _ := hd
  highInHighPart h := absurd h hm
  latchPositive h := (hlatch h).1
  shiftPosition h := absurd h hm
  fetchPosition := hfetch
  latchPosition h := (hlatch h).2
  shiftByte h := absurd h hm
  logAlternates := hl.1
  logInPast := hl.2

theorem Inv.of_shift {s : State} (hm : s.blk.mode = .shift)
    (hd : s.blk.dout = .high ↔ highPart s.build.profile s.blk = true) (hl : LogSound s)
    (hpos : s.blk.ticks % 72 = 24 * s.blk.chan.val + 3 * s.blk.bitIdx.val + s.blk.phase.val)
    (hsh : s.blk.sh = channelByte s.blk s.blk.chan <<< s.blk.bitIdx.val) : Inv s where
  lowOutsideShift h := absurd hm h
  highInHighPart _ := hd
  latchPositive h := by simp [hm] at h
  shiftPosition _ := hpos
  fetchPosition h := by simp [hm] at h
  latchPosition h := by simp [hm] at h
  shiftByte _ := hsh
  logAlternates := hl.1
  logInPast := hl.2

/-- The invariant does not look at the inputs of the run. -/
theorem Inv.setEnv {s : State} (h : Inv s) (e : Env) : Inv { s with env := e } := { h with }

/-! ### The invariant is kept by commands and pulls -/

/-- Settles O41: reset is in IDLE with the line low and the log empty. -/
theorem invariantHoldsAtReset : Obligations.InvariantHoldsAtReset :=
  .of_notShift (by decide) rfl ⟨rfl, by simp [State.reset, State.resetOf, Body.reset]⟩ (by decide) (by decide)

theorem Inv.resetStep (s : State) : Inv (resetStep s) :=
  .of_notShift (by simp) rfl ⟨rfl, by simp⟩ (by simp) (by simp)

/-- The answer of the source is acted on at a pixel boundary: the pixel starts at its first tick, the latch interval
with its whole count. -/
theorem Inv.applyAnswer {s : State} (h : Inv s) (hm : s.blk.mode = .fetch) (a : Answer) : Inv (applyAnswer a s) := by
  have hd : s.blk.dout = .low := h.lowOutsideShift (by simp [hm])
  have ht : s.blk.ticks % 72 = 0 := h.fetchPosition hm
  cases a with
  | some p =>
    refine .of_shift rfl ?_ h.logSound ?_ ?_
    · simp [Machine.applyAnswer, highPart, hd]
    · simpa [Machine.applyAnswer] using ht
    · simp [Machine.applyAnswer, channelByte_eq]
  | none =>
    refine .of_notShift (by simp [Machine.applyAnswer]) hd h.logSound (by simp [Machine.applyAnswer]) fun _ => ?_
    simp only [Machine.applyAnswer, Config.latchTicks, Fin.ofNat]
    omega
  | notReady => exact h

theorem Inv.answerStep {s : State} (h : Inv s) (a : Answer) : Inv (answerStep a s) := by
  by_cases hm : s.blk.mode = .fetch
  · rw [answerStep_fetch hm]; exact h.applyAnswer hm a
  · rw [answerStep_other hm]; exact h

theorem Inv.fetch {s : State} (h : Inv s) (hm : s.blk.mode = .fetch) : Inv (fetch s) :=
  (h.setEnv { s.env with source := (pixNext s.env.source).2 }).applyAnswer hm _

/-- A frame begins with the ghosts cleared, which is a pixel boundary (R142). -/
theorem Inv.startStep {s : State} (h : Inv s) : Inv (startStep s) := by
  by_cases hm : s.blk.mode = .idle
  · rw [startStep_idle hm]
    have hd : s.blk.dout = .low := h.lowOutsideShift (by simp [hm])
    refine Inv.fetch (.of_notShift ?_ hd ⟨?_, ?_⟩ ?_ ?_) rfl <;> simp [alternates, hd]
  · rw [startStep_busy hm]; exact h

/-! ### The invariant is kept by ticks -/

/-- The third tick of the last bit of a byte has been consumed. -/
theorem inv_byteDone {s : State} (hm : s.blk.mode = .shift) (hd : s.blk.dout = .low) (hl : LogSound s)
    (hp : s.blk.phase = 0) (hb : s.blk.bitIdx = 0) (ht : s.blk.ticks % 72 = 24 * (s.blk.chan.val + 1) % 72) :
    Inv (byteDone s) := by
  obtain hc | hc := chan_cases s.blk.chan
  · rw [byteDone_next hc]
    have hc' : (s.blk.chan + 1).val = s.blk.chan.val + 1 := by simp only [Fin.val_add]; omega
    refine .of_shift hm ?_ hl ?_ ?_
    · simp [highPart, hd, hp]
    · simp only [hb, hp, hc', ht]; omega
    · simp [hb, channelByte_eq]
  · rw [byteDone_last hc]
    refine Inv.fetch (.of_notShift (by simp) hd hl (fun _ => ?_) (by simp)) rfl
    simpa [hc] using ht

/-- The third tick of a bit has been consumed, with the line low at its end. -/
theorem inv_bitDone {s : State} (hm : s.blk.mode = .shift) (hd : s.blk.dout = .low) (hl : LogSound s)
    (hp : s.blk.phase = 0) (ht : s.blk.ticks % 72 = (24 * s.blk.chan.val + 3 * (s.blk.bitIdx.val + 1)) % 72)
    (hsh : s.blk.sh = channelByte s.blk s.blk.chan <<< s.blk.bitIdx.val) : Inv (bitDone s) := by
  obtain hb | hb := bitIdx_cases s.blk.bitIdx
  · rw [bitDone_inside hb]
    have hb' : (s.blk.bitIdx + 1).val = s.blk.bitIdx.val + 1 := by simp only [Fin.val_add]; omega
    refine .of_shift hm ?_ hl ?_ ?_
    · simp [highPart, hd, hp]
    · simp only [hp, hb', ht]; omega
    · rw [hb', BitVec.shiftLeft_add, shl8, hsh]
      simp only [channelByte_eq]
  · rw [bitDone_last hb]
    refine inv_byteDone hm hd hl hp rfl ?_
    simp only [ht, hb]; omega

theorem bitOut_congr {b c : Block} (h : b.sh = c.sh) : bitOut b = bitOut c := by rw [bitOut, bitOut, h]

/-- The high part of a symbol, position by position (R119): not yet, all but a slow 0, a 1 only. -/
theorem highPart_phase0 {b : Block} (p : Profile) (h : b.phase = 0) : highPart p b = false := by simp [highPart, h]
theorem highPart_phase1 {b : Block} {v : Bool} (p : Profile) (h : b.phase = 1) (hv : bitOut b = v) :
    highPart p b = !(decide (p = .slow) && !v) := by simp [highPart, h, hv]
theorem highPart_phase2 {b : Block} {v : Bool} (p : Profile) (h : b.phase = 2) (hv : bitOut b = v) :
    highPart p b = v := by simp [highPart, h, hv]

/-- The tick of the rise (R115). -/
theorem Inv.bitStep_rise {s : State} (h : Inv s) (hm : s.blk.mode = .shift) (hp : s.blk.phase = 0) (k : TickKind) :
    Inv (bitStep s.build.profile k s) := by
  have hhigh := h.highInHighPart hm
  rw [highPart_phase0 _ hp] at hhigh
  have hrise : LogSound (pin .high (consumeTick k s)) :=
    (h.logSound.consumeTick k).pin (fun hd => Bool.false_ne_true (hhigh.mp hd.symm)) (Nat.succ_pos _)
  have ht := h.shiftPosition hm
  rw [bitStep_phase0 hp]
  refine .of_shift ?_ ?_ (hrise.pinLowIf (fun _ => rfl) (Nat.succ_pos _)) ?_ ?_
  · simpa using hm
  · rw [highPart_phase1 _ rfl (v := bitOut s.blk) (bitOut_congr (by simp))]
    simp only [pinLowIf_dout, pin_dout, pinLowIf_build, pin_build, consumeTick_build]
    cases s.build.profile <;> cases bitOut s.blk <;> decide
  · rw [hp] at ht
    simp only [pinLowIf_ticks, pinLowIf_chan, pinLowIf_bitIdx, pin_ticks, pin_chan, pin_bitIdx, consumeTick_ticks,
      consumeTick_chan, consumeTick_bitIdx]
    omega
  · simpa [channelByte_eq] using h.shiftByte hm

/-- The tick at which a 0 of the standard profile falls (R115). -/
theorem Inv.bitStep_fallOfZero {s : State} (h : Inv s) (hm : s.blk.mode = .shift) (hp : s.blk.phase = 1)
    (k : TickKind) : Inv (bitStep s.build.profile k s) := by
  have hhigh := h.highInHighPart hm
  rw [highPart_phase1 _ hp rfl] at hhigh
  have ht := h.shiftPosition hm
  rw [bitStep_phase1 hp]
  refine .of_shift ?_ ?_ ((h.logSound.consumeTick k).pinLowIf (fun hc => hhigh.mpr ?_) (Nat.succ_pos _)) ?_ ?_
  · simpa using hm
  · rw [highPart_phase2 _ rfl (v := bitOut s.blk) (bitOut_congr (by simp))]
    simp only [pinLowIf_dout, consumeTick_dout]
    revert hhigh
    cases s.build.profile <;> cases bitOut s.blk <;> simp
  · revert hc
    cases s.build.profile <;> simp
  · rw [hp] at ht
    simp only [pinLowIf_ticks, pinLowIf_chan, pinLowIf_bitIdx, consumeTick_ticks, consumeTick_chan,
      consumeTick_bitIdx]
    omega
  · simpa [channelByte_eq] using h.shiftByte hm

/-- The tick at which a 1 falls and the bit ends (R115, R120). -/
theorem Inv.bitStep_fallOfOne {s : State} (h : Inv s) (hm : s.blk.mode = .shift) (hp : s.blk.phase = 2)
    (k : TickKind) : Inv (bitStep s.build.profile k s) := by
  have hhigh := h.highInHighPart hm
  rw [highPart_phase2 _ hp rfl] at hhigh
  have ht := h.shiftPosition hm
  rw [bitStep_phase2 hp]
  refine inv_bitDone ?_ ?_ ((h.logSound.consumeTick k).pinLowIf hhigh.mpr (Nat.succ_pos _)) rfl ?_ ?_
  · simpa using hm
  · revert hhigh
    simp only [pinLowIf_dout, consumeTick_dout]
    cases bitOut s.blk <;> cases s.blk.dout <;> simp
  · rw [hp] at ht
    simp only [pinLowIf_ticks, pinLowIf_chan, pinLowIf_bitIdx, consumeTick_ticks, consumeTick_chan,
      consumeTick_bitIdx]
    omega
  · simpa [channelByte_eq] using h.shiftByte hm

theorem Inv.bitStep {s : State} (h : Inv s) (hm : s.blk.mode = .shift) (k : TickKind) :
    Inv (bitStep s.build.profile k s) := by
  obtain hp | hp | hp := phase_cases s.blk.phase
  · exact h.bitStep_rise hm hp k
  · exact h.bitStep_fallOfZero hm hp k
  · exact h.bitStep_fallOfOne hm hp k

/-- A tick of the latch interval: one more counted, one fewer to come (R146). -/
theorem Inv.latchStep {s : State} (h : Inv s) (hm : s.blk.mode = .latch) (k : TickKind) : Inv (latchStep k s) := by
  have hd : s.blk.dout = .low := h.lowOutsideShift (by simp [hm])
  have hpos := h.latchPosition hm
  obtain hc | hc | hc := latchCnt_cases s.blk.latchCnt
  · exact absurd hc (h.latchPositive hm)
  · rw [latchStep_last hc]
    exact .of_notShift (by simp) hd (h.logSound.consumeTick k) (by simp) (by simp)
  · rw [latchStep_more hc]
    refine .of_notShift (by simp [hm]) hd (h.logSound.consumeTick k) (by simp [hm]) fun _ => ?_
    simp only [predLatch]
    omega

theorem Inv.tickStep {s : State} (h : Inv s) (k : TickKind) : Inv (tickStep s.build.profile k s) := by
  cases hm : s.blk.mode with
  | idle => rw [tickStep_idle hm]; exact h
  | fetch => rw [tickStep_fetch hm]; exact h
  | shift => rw [tickStep_shift hm]; exact h.bitStep hm k
  | latch => rw [tickStep_latch hm]; exact h.latchStep hm k

/-- Settles O42: each shared operation keeps the invariant, so every step does. -/
theorem invariantKeptByEveryStep : Obligations.InvariantKeptByEveryStep := fun _ _ h hs =>
  step_induction (fun _ e h => h.setEnv e) (fun s _ => .resetStep s) (fun _ h => h.startStep)
    (fun a _ h => h.answerStep a) (fun _ h hm => h.fetch hm) (fun k _ h => h.tickStep k) h hs

/-! ### What an operation is, whatever the state -/

/-- Two states agree on everything that is not unspecified, the diagnostic counter apart: all that may be read to
choose what is done next. -/
def LiveButDiag (s t : State) : Prop := LiveEq (withDiag none s) (withDiag none t)

theorem LiveEq.refl (s : State) : LiveEq s s := by constructor <;> simp

theorem LiveEq.liveButDiag {s t : State} (h : LiveEq s t) : LiveButDiag s t := { h with diagErr := rfl }

section
variable {s t : State} (h : LiveButDiag s t)
include h

theorem LiveButDiag.liveEq : LiveEq (withDiag none s) (withDiag none t) := h
theorem LiveButDiag.build : s.build = t.build := h.liveEq.build
theorem LiveButDiag.env : s.env = t.env := h.liveEq.env
theorem LiveButDiag.mode : s.blk.mode = t.blk.mode := h.liveEq.mode
theorem LiveButDiag.datapath : s.blk.mode = .shift →
    s.blk.r = t.blk.r ∧ s.blk.g = t.blk.g ∧ s.blk.b = t.blk.b ∧ s.blk.sh = t.blk.sh := h.liveEq.datapath
theorem LiveButDiag.position : s.blk.mode = .shift →
    s.blk.chan = t.blk.chan ∧ s.blk.bitIdx = t.blk.bitIdx ∧ s.blk.phase = t.blk.phase := h.liveEq.position
theorem LiveButDiag.latch : s.blk.mode = .latch → s.blk.latchCnt = t.blk.latchCnt := h.liveEq.latch

theorem LiveButDiag.byteReady (v : Byte) : byteReady v s = byteReady v t := by
  by_cases hm : s.blk.mode = .shift
  · obtain ⟨-, -, -, hsh⟩ := h.datapath hm
    obtain ⟨-, hbit, hphase⟩ := h.position hm
    simp only [Machine.byteReady, h.mode, hsh, hbit, hphase]
  · simp [Machine.byteReady, hm, ← h.mode]

theorem LiveButDiag.pixelReady (r g b : Byte) : pixelReady r g b s = pixelReady r g b t := by
  by_cases hm : s.blk.mode = .shift
  · obtain ⟨hr, hg, hb, -⟩ := h.datapath hm
    obtain ⟨hchan, -, -⟩ := h.position hm
    simp only [Machine.pixelReady, h.byteReady, hr, hg, hb, hchan]
  · simp [Machine.pixelReady, Machine.byteReady, hm, ← h.mode]

theorem LiveButDiag.symbolReady (p : Profile) (v : Bool) : symbolReady p v s = symbolReady p v t := by
  by_cases hm : s.blk.mode = .shift
  · obtain ⟨-, -, -, hsh⟩ := h.datapath hm
    obtain ⟨-, -, hphase⟩ := h.position hm
    rw [Machine.symbolReady, Machine.symbolReady, h.mode, h.build, hphase, bitOut_congr hsh]
  · simp [Machine.symbolReady, hm, ← h.mode]

theorem LiveButDiag.latchReady : latchReady s = latchReady t := by
  by_cases hm : s.blk.mode = .latch
  · simp only [Machine.latchReady, h.mode, h.latch hm]
  · simp [Machine.latchReady, hm, ← h.mode]

end

/-- What a composed operation does: the ticks it stands for, where it is the one the block stands at. -/
def ComposedOf (i : Instr) (n : Nat) (ready : State → Bool) : Prop :=
  (∀ s t, LiveButDiag s t → ready s = ready t) ∧
  ∀ s, effect i s = if ready s then runTicks s.build.profile n s else s

theorem symbol_runs_build (p : Profile) (v : Bool) (s : State) :
    symbol p v s = if symbolReady p v s then runTicks s.build.profile Config.ticksPerBit s else s := by
  rw [symbol]
  split
  next h => rw [symbolReady_profile h]
  next => rfl

/-- The one shared operation an instruction is, the same in every state; only CONSTRUCT is `Reset`. -/
theorem effect_shape (i : Instr) :
    (∃ b, i = .construct b ∧ effect i = resetStep) ∨ effect i = id ∨ effect i = startStep ∨
    (∃ a, effect i = answerStep a) ∨ (∃ k, ∀ s, effect i s = tickStep s.build.profile k s) ∨
    ∃ n ready, ComposedOf i n ready := by
  cases i with
  | construct b => exact .inl ⟨b, rfl, rfl⟩
  | nop => exact .inr (.inl rfl)
  | write => exact .inr (.inr (.inl rfl))
  | fetchSome d => exact .inr (.inr (.inr (.inl ⟨_, rfl⟩)))
  | fetchNone v => exact .inr (.inr (.inr (.inl ⟨_, rfl⟩)))
  | fetchWait => exact .inr (.inr (.inr (.inl ⟨_, rfl⟩)))
  | tick t e =>
    cases h : tickKindOf t e with
    | none => exact .inr (.inl (by funext s; simp [effect, exec, execTick, h]))
    | some k => exact .inr (.inr (.inr (.inr (.inl ⟨k, fun s => by simp [effect, exec, execTick, h]⟩))))
  | pixel r g b =>
    exact .inr (.inr (.inr (.inr (.inr ⟨_, _, fun _ _ h => h.pixelReady r g b, fun _ => rfl⟩))))
  | byte v => exact .inr (.inr (.inr (.inr (.inr ⟨_, _, fun _ _ h => h.byteReady v, fun _ => rfl⟩))))
  | latch => exact .inr (.inr (.inr (.inr (.inr ⟨_, _, fun _ _ h => h.latchReady, fun _ => rfl⟩))))
  | bit1Std =>
    exact .inr (.inr (.inr (.inr (.inr ⟨_, _, fun _ _ h => h.symbolReady .std true, symbol_runs_build _ _⟩))))
  | bit0Std =>
    exact .inr (.inr (.inr (.inr (.inr ⟨_, _, fun _ _ h => h.symbolReady .std false, symbol_runs_build _ _⟩))))
  | bit1Slow =>
    exact .inr (.inr (.inr (.inr (.inr ⟨_, _, fun _ _ h => h.symbolReady .slow true, symbol_runs_build _ _⟩))))
  | bit0Slow =>
    exact .inr (.inr (.inr (.inr (.inr ⟨_, _, fun _ _ h => h.symbolReady .slow false, symbol_runs_build _ _⟩))))

/-! ### Relations of states that every step keeps -/

/-- A pull in FETCH is the answer of the source, taken from the source (R143, R157). -/
theorem fetch_eq_answerStep {s : State} (hm : s.blk.mode = .fetch) :
    fetch s = answerStep (pixNext s.env.source).1
      { s with env := { s.env with source := (pixNext s.env.source).2 } } := by
  rw [answerStep_fetch (by exact hm), fetch]

/-- The shared operations take related states to related states. -/
structure KeptByOps (R : State → State → Prop) : Prop where
  live : ∀ {s t}, R s t → LiveButDiag s t
  setEnv : ∀ {s t} (e : Env), R s t → R { s with env := e } { t with env := e }
  reset : ∀ {s t}, R s t → R (resetStep s) (resetStep t)
  start : ∀ {s t}, R s t → R (startStep s) (startStep t)
  answer : ∀ {s t} (a : Answer), R s t → R (answerStep a s) (answerStep a t)
  tick : ∀ {s t} (p : Profile) (k : TickKind), R s t → R (tickStep p k s) (tickStep p k t)

section
variable {R : State → State → Prop} (hR : KeptByOps R)
include hR

theorem KeptByOps.env_eq {s t : State} (h : R s t) : s.env = t.env := (hR.live h).env

theorem KeptByOps.profile_eq {s t : State} (h : R s t) : s.build.profile = t.build.profile :=
  congrArg Build.profile (hR.live h).build

/-- The inputs of related states are the same, so the same change of them keeps the relation. -/
theorem KeptByOps.mapEnv {s t : State} (f : Env → Env) (h : R s t) :
    R { s with env := f s.env } { t with env := f t.env } := by
  rw [hR.env_eq h]
  exact hR.setEnv _ h

theorem KeptByOps.present {s t : State} (w : PxWord) (h : R s t) : R (present w s) (present w t) :=
  hR.mapEnv (fun e => { e with source := [w], offer := [w] }) h

theorem KeptByOps.fetch {s t : State} (h : R s t) (hm : s.blk.mode = .fetch) : R (fetch s) (fetch t) := by
  have hmode := (hR.live h).mode
  rw [fetch_eq_answerStep hm, fetch_eq_answerStep (hmode ▸ hm), hR.env_eq h]
  exact hR.answer _ (hR.setEnv _ h)

theorem KeptByOps.pollStep {s t : State} (h : R s t) : R (pollStep s) (pollStep t) := by
  have hmode := (hR.live h).mode
  by_cases hm : s.blk.mode = .fetch
  · rw [pollStep_fetch hm, pollStep_fetch (hmode ▸ hm)]; exact hR.fetch h hm
  · rw [pollStep_other hm, pollStep_other (hmode ▸ hm)]; exact h

theorem KeptByOps.runTicks (p : Profile) (n : Nat) {s t : State} (h : R s t) :
    R (runTicks p n s) (runTicks p n t) := by
  induction n generalizing s t with
  | zero => exact h
  | succ n ih =>
    cases hw : s.env.waits with
    | nil => rw [runTicks_blocked hw, runTicks_blocked (hR.env_eq h ▸ hw)]; exact h
    | cons k ks =>
      rw [runTicks_cons hw, runTicks_cons (hR.env_eq h ▸ hw)]
      exact ih (hR.tick p k (hR.mapEnv (fun e => { e with waits := ks }) h))

theorem KeptByOps.effect (i : Instr) {s t : State} (h : R s t) : R (effect i s) (effect i t) := by
  obtain ⟨_, -, e⟩ | e | e | ⟨a, e⟩ | ⟨k, e⟩ | ⟨n, ready, hready, e⟩ := effect_shape i
  · rw [e]; exact hR.reset h
  · rw [e]; exact h
  · rw [e]; exact hR.start h
  · rw [e]; exact hR.answer a h
  · rw [e, e, hR.profile_eq h]; exact hR.tick _ k h
  · rw [e, e, hready s t (hR.live h), hR.profile_eq h]
    split
    · exact hR.runTicks _ n h
    · exact h

theorem KeptByOps.clockCycle (p : Profile) (c : PortSample) {s t : State} (h : R s t) :
    R (clockCycle p c s) (clockCycle p c t) := by
  unfold Machine.clockCycle
  split
  · exact hR.reset h
  · refine hR.pollStep (hR.present _ ?_)
    have hstart : ∀ {u v : State}, R u v → R (if c.start then startStep (Machine.present c.px u) else u)
        (if c.start then startStep (Machine.present c.px v) else v) := by
      intro u v huv
      split
      · exact hR.start (hR.present _ huv)
      · exact huv
    cases tickKindOf c.tick c.tickErr with
    | none => exact hstart h
    | some k => exact hstart (hR.tick p k (hR.present _ h))

/-- Related states step to related states, or are refused for the same reason: the next event is the same. -/
theorem KeptByOps.step {s t : State} (h : R s t) : outcomesAgree R (step s) (step t) := by
  have hmode := (hR.live h).mode
  cases hi : s.env.inputs with
  | nil => rw [step_nil hi, step_nil (hR.env_eq h ▸ hi)]; exact h
  | cons ev rest =>
    have hi' : t.env.inputs = ev :: rest := hR.env_eq h ▸ hi
    have hrest := hR.mapEnv (fun e => { e with inputs := rest }) h
    cases ev with
    | word w src =>
      cases hd : decode w with
      | ok i =>
        rw [step_word hi hd, step_word hi' hd]
        exact hR.effect i (hR.mapEnv (fun e => { e with inputs := rest, offer := src }) h)
      | error e => rw [step_badWord hi hd, step_badWord hi' hd]; exact rfl
    | poll =>
      by_cases hm : s.blk.mode = .fetch
      · rw [step_poll_fetch hi hm, step_poll_fetch hi' (hmode ▸ hm)]; exact hR.fetch hrest hm
      · rw [step_poll_other hi hm, step_poll_other hi' (hmode ▸ hm)]; exact hrest
    | cycle c =>
      rw [step_cycle hi, step_cycle hi', hR.profile_eq h]
      exact hR.clockCycle _ c hrest

end

/-! ### What is unspecified is never read -/

section
variable {s t : State} (h : LiveEq s t)
include h

theorem LiveEq.setEnv (e : Env) : LiveEq { s with env := e } { t with env := e } := { h with env := rfl }

theorem LiveEq.pin (l : Level) : LiveEq (pin l s) (pin l t) :=
  { h with dout := rfl, log := by simp [h.log, h.ticks], outs := by simp [h.outs] }

theorem LiveEq.pinLowIf (c : Bool) : LiveEq (pinLowIf c s) (pinLowIf c t) := by
  cases c with
  | false => exact h
  | true => exact h.pin .low

theorem LiveEq.consumeTick (k : TickKind) : LiveEq (consumeTick k s) (consumeTick k t) :=
  { h with ticks := by simp [h.ticks], diagErr := by simp [h.diagErr] }

/-- `Reset` leaves both in IDLE, where the free values do not count. -/
theorem LiveEq.resetStep : LiveEq (resetStep s) (resetStep t) where
  build := h.build
  env := h.env
  outs := by simp [h.outs]
  mode := rfl
  dout := rfl
  diagErr := by simp [h.diagErr]
  ticks := rfl
  log := rfl
  datapath hm := by simp at hm
  position hm := by simp at hm
  latch hm := by simp at hm

/-- An answer writes every register of the mode it leads to. -/
theorem LiveEq.applyAnswer (a : Answer) : LiveEq (applyAnswer a s) (applyAnswer a t) := by
  cases a with
  | some p =>
    exact { h with
      outs := by simp [Machine.applyAnswer, h.outs], mode := rfl, datapath := fun _ => ⟨rfl, rfl, rfl, rfl⟩
      position := fun _ => ⟨rfl, rfl, rfl⟩, latch := by simp [Machine.applyAnswer] }
  | none =>
    exact { h with
      mode := rfl, datapath := by simp [Machine.applyAnswer], position := by simp [Machine.applyAnswer]
      latch := fun _ => rfl }
  | notReady => exact h

theorem LiveEq.answerStep (a : Answer) : LiveEq (answerStep a s) (answerStep a t) := by
  by_cases hm : s.blk.mode = .fetch
  · rw [answerStep_fetch hm, answerStep_fetch (h.mode ▸ hm)]; exact h.applyAnswer a
  · rw [answerStep_other hm, answerStep_other (h.mode ▸ hm)]; exact h

theorem LiveEq.fetch : LiveEq (fetch s) (fetch t) := by
  rw [Machine.fetch, Machine.fetch, h.env]
  exact (h.setEnv _).applyAnswer _

theorem LiveEq.startStep : LiveEq (startStep s) (startStep t) := by
  by_cases hm : s.blk.mode = .idle
  · rw [startStep_idle hm, startStep_idle (h.mode ▸ hm), h.env]
    exact LiveEq.fetch { h with
      env := rfl, ticks := rfl, log := rfl, mode := rfl, datapath := by simp, position := by simp, latch := by simp }
  · rw [startStep_busy hm, startStep_busy (h.mode ▸ hm)]; exact h

theorem LiveEq.setPhase (i : Fin 3) :
    LiveEq { s with blk := { s.blk with phase := i } } { t with blk := { t.blk with phase := i } } :=
  { h with position := fun hm => ⟨(h.position hm).1, (h.position hm).2.1, rfl⟩ }

theorem LiveEq.byteDone (hm : s.blk.mode = .shift) : LiveEq (byteDone s) (byteDone t) := by
  obtain ⟨hr, hg, hb, -⟩ := h.datapath hm
  obtain ⟨hchan, hbit, hphase⟩ := h.position hm
  obtain hc | hc := chan_cases s.blk.chan
  · rw [byteDone_next hc, byteDone_next (hchan ▸ hc)]
    exact { h with
      datapath := fun _ => ⟨hr, hg, hb, by simp only [channelByte_eq, hr, hg, hb, hchan]⟩
      position := fun _ => ⟨congrArg (· + 1) hchan, hbit, hphase⟩ }
  · rw [byteDone_last hc, byteDone_last (hchan ▸ hc)]
    exact LiveEq.fetch { h with mode := rfl, datapath := by simp, position := by simp, latch := by simp }

theorem LiveEq.bitDone (hm : s.blk.mode = .shift) : LiveEq (bitDone s) (bitDone t) := by
  obtain ⟨hr, hg, hb, hsh⟩ := h.datapath hm
  obtain ⟨hchan, hbit, hphase⟩ := h.position hm
  obtain hi | hi := bitIdx_cases s.blk.bitIdx
  · rw [bitDone_inside hi, bitDone_inside (hbit ▸ hi)]
    exact { h with
      datapath := fun _ => ⟨hr, hg, hb, congrArg shl8 hsh⟩
      position := fun _ => ⟨hchan, congrArg (· + 1) hbit, hphase⟩ }
  · rw [bitDone_last hi, bitDone_last (hbit ▸ hi)]
    exact LiveEq.byteDone { h with
      datapath := fun _ => ⟨hr, hg, hb, congrArg shl8 hsh⟩
      position := fun _ => ⟨hchan, rfl, hphase⟩ } hm

theorem LiveEq.bitStep (hm : s.blk.mode = .shift) (p : Profile) (k : TickKind) :
    LiveEq (bitStep p k s) (bitStep p k t) := by
  obtain ⟨-, -, -, hsh⟩ := h.datapath hm
  obtain ⟨-, -, hphase⟩ := h.position hm
  have hv : bitOut s.blk = bitOut t.blk := bitOut_congr hsh
  have hk := h.consumeTick k
  obtain hp | hp | hp := phase_cases s.blk.phase
  · rw [bitStep_phase0 hp, bitStep_phase0 (hphase ▸ hp), hv]
    exact ((hk.pin .high).pinLowIf _).setPhase 1
  · rw [bitStep_phase1 hp, bitStep_phase1 (hphase ▸ hp), hv]
    exact (hk.pinLowIf _).setPhase 2
  · rw [bitStep_phase2 hp, bitStep_phase2 (hphase ▸ hp), hv]
    exact ((hk.pinLowIf _).setPhase 0).bitDone (by simpa using hm)

theorem LiveEq.latchStep (hm : s.blk.mode = .latch) (k : TickKind) : LiveEq (latchStep k s) (latchStep k t) := by
  have hcnt := h.latch hm
  have hk := h.consumeTick k
  obtain hc | hc | hc := latchCnt_cases s.blk.latchCnt
  · rw [latchStep_zero hc, latchStep_zero (hcnt ▸ hc)]; exact h
  · rw [latchStep_last hc, latchStep_last (hcnt ▸ hc)]
    exact { hk with
      outs := by simp [h.outs], mode := rfl, datapath := by simp, position := by simp, latch := by simp }
  · rw [latchStep_more hc, latchStep_more (hcnt ▸ hc)]
    exact { hk with latch := fun _ => congrArg predLatch hcnt }

theorem LiveEq.tickStep (p : Profile) (k : TickKind) : LiveEq (tickStep p k s) (tickStep p k t) := by
  cases hm : s.blk.mode with
  | idle => rw [tickStep_idle hm, tickStep_idle (h.mode ▸ hm)]; exact h
  | fetch => rw [tickStep_fetch hm, tickStep_fetch (h.mode ▸ hm)]; exact h
  | shift => rw [tickStep_shift hm, tickStep_shift (h.mode ▸ hm)]; exact h.bitStep hm p k
  | latch => rw [tickStep_latch hm, tickStep_latch (h.mode ▸ hm)]; exact h.latchStep hm k

end

theorem keptByOps_liveEq : KeptByOps LiveEq where
  live h := h.liveButDiag
  setEnv e h := h.setEnv e
  reset h := h.resetStep
  start h := h.startStep
  answer a h := h.answerStep a
  tick p k h := h.tickStep p k

/-- Settles O47: each shared operation reads an unspecified register of neither state. -/
theorem unspecifiedRegistersAreNeverRead : Obligations.UnspecifiedRegistersAreNeverRead :=
  fun _ _ h => keptByOps_liveEq.step h

/-! ### The diagnostic counter is never read -/

theorem withDiag_pinLowIf (d : Option Nat) (c : Bool) (s : State) :
    pinLowIf c (withDiag d s) = withDiag d (pinLowIf c s) := by
  cases c <;> rfl

/-- In a build without the counter the kind of a tick leaves no trace. -/
theorem withDiag_consumeTick (k : TickKind) (s : State) :
    consumeTick k (withDiag none s) = withDiag none (consumeTick k s) := by
  cases k <;> rfl

theorem withDiag_applyAnswer (d : Option Nat) (a : Answer) (s : State) :
    applyAnswer a (withDiag d s) = withDiag d (applyAnswer a s) := by
  cases a <;> rfl

theorem withDiag_answerStep (d : Option Nat) (a : Answer) (s : State) :
    answerStep a (withDiag d s) = withDiag d (answerStep a s) := by
  by_cases hm : s.blk.mode = .fetch
  · rw [answerStep_fetch hm, answerStep_fetch (by exact hm), withDiag_applyAnswer]
  · rw [answerStep_other hm, answerStep_other (by exact hm)]

theorem withDiag_fetch (d : Option Nat) (s : State) : fetch (withDiag d s) = withDiag d (fetch s) :=
  withDiag_applyAnswer d _ { s with env := { s.env with source := (pixNext s.env.source).2 } }

theorem withDiag_startStep (d : Option Nat) (s : State) : startStep (withDiag d s) = withDiag d (startStep s) := by
  by_cases hm : s.blk.mode = .idle
  · rw [startStep_idle hm, startStep_idle (by exact hm), ← withDiag_fetch]; rfl
  · rw [startStep_busy hm, startStep_busy (by exact hm)]

theorem withDiag_byteDone (d : Option Nat) (s : State) : byteDone (withDiag d s) = withDiag d (byteDone s) := by
  obtain hc | hc := chan_cases s.blk.chan
  · rw [byteDone_next hc, byteDone_next (by exact hc)]; rfl
  · rw [byteDone_last hc, byteDone_last (by exact hc), ← withDiag_fetch]; rfl

theorem withDiag_bitDone (d : Option Nat) (s : State) : bitDone (withDiag d s) = withDiag d (bitDone s) := by
  obtain hb | hb := bitIdx_cases s.blk.bitIdx
  · rw [bitDone_inside hb, bitDone_inside (by exact hb)]; rfl
  · rw [bitDone_last hb, bitDone_last (by exact hb), ← withDiag_byteDone]; rfl

theorem withDiag_bitStep (p : Profile) (k : TickKind) (s : State) :
    bitStep p k (withDiag none s) = withDiag none (bitStep p k s) := by
  have hv : bitOut (withDiag none s).blk = bitOut s.blk := rfl
  obtain hp | hp | hp := phase_cases s.blk.phase
  · have hpin : pin .high (withDiag none (consumeTick k s)) = withDiag none (pin .high (consumeTick k s)) := rfl
    rw [bitStep_phase0 hp, bitStep_phase0 (by exact hp), hv, withDiag_consumeTick, hpin, withDiag_pinLowIf]; rfl
  · rw [bitStep_phase1 hp, bitStep_phase1 (by exact hp), hv, withDiag_consumeTick, withDiag_pinLowIf]; rfl
  · rw [bitStep_phase2 hp, bitStep_phase2 (by exact hp), hv, withDiag_consumeTick, withDiag_pinLowIf,
      ← withDiag_bitDone]; rfl

theorem withDiag_latchStep (k : TickKind) (s : State) :
    latchStep k (withDiag none s) = withDiag none (latchStep k s) := by
  obtain hc | hc | hc := latchCnt_cases s.blk.latchCnt
  · rw [latchStep_zero hc, latchStep_zero (by exact hc)]
  · rw [latchStep_last hc, latchStep_last (by exact hc)]; cases k <;> rfl
  · rw [latchStep_more hc, latchStep_more (by exact hc)]; cases k <;> rfl

theorem withDiag_tickStep (p : Profile) (k : TickKind) (s : State) :
    tickStep p k (withDiag none s) = withDiag none (tickStep p k s) := by
  cases hm : s.blk.mode with
  | idle => rw [tickStep_idle hm, tickStep_idle (by exact hm)]
  | fetch => rw [tickStep_fetch hm, tickStep_fetch (by exact hm)]
  | shift => rw [tickStep_shift hm, tickStep_shift (by exact hm), withDiag_bitStep]
  | latch => rw [tickStep_latch hm, tickStep_latch (by exact hm), withDiag_latchStep]

/-- Two states that are equal but for the diagnostic counter. -/
def EqButDiag (s t : State) : Prop := withDiag none s = withDiag none t

/-- An operation that commutes with taking the counter out keeps equality but for the counter. -/
theorem EqButDiag.of_commutes {f : State → State} (hf : ∀ s, f (withDiag none s) = withDiag none (f s))
    {s t : State} (h : EqButDiag s t) : EqButDiag (f s) (f t) := by
  rw [EqButDiag, ← hf, ← hf, h]

theorem keptByOps_eqButDiag : KeptByOps EqButDiag where
  live h := by rw [LiveButDiag, h]; exact .refl _
  setEnv e := EqButDiag.of_commutes (f := fun s => { s with env := e }) fun _ => rfl
  reset := EqButDiag.of_commutes (f := resetStep) fun _ => rfl
  start := EqButDiag.of_commutes (withDiag_startStep none)
  answer a := EqButDiag.of_commutes (withDiag_answerStep none a)
  tick p k := EqButDiag.of_commutes (withDiag_tickStep p k)

/-- Settles O48: each shared operation commutes with taking the counter out. -/
theorem diagnosticCounterChangesNothingElse : Obligations.DiagnosticCounterChangesNothingElse :=
  fun _ _ => keptByOps_eqButDiag.step rfl

/-! ### The captured pixel -/

/-- `t` comes after `s` with outputs added, and has another pixel only where a `Take` is among them (R22, R69). -/
def PixelKeptOrTaken (s t : State) : Prop :=
  ∃ outs, t.obs.outs = s.obs.outs ++ outs ∧
    ((t.blk.r = s.blk.r ∧ t.blk.g = s.blk.g ∧ t.blk.b = s.blk.b) ∨ Output.take ∈ outs)

theorem PixelKeptOrTaken.refl (s : State) : PixelKeptOrTaken s s := ⟨[], by simp, .inl ⟨rfl, rfl, rfl⟩⟩

theorem PixelKeptOrTaken.trans {s t u : State} (h : PixelKeptOrTaken s t) (h' : PixelKeptOrTaken t u) :
    PixelKeptOrTaken s u := by
  obtain ⟨o, ho, hk⟩ := h
  obtain ⟨o', ho', hk'⟩ := h'
  refine ⟨o ++ o', by rw [ho', ho, List.append_assoc], ?_⟩
  obtain ⟨hr, hg, hb⟩ | ht := hk
  · obtain ⟨hr', hg', hb'⟩ | ht' := hk'
    · exact .inl ⟨hr'.trans hr, hg'.trans hg, hb'.trans hb⟩
    · exact .inr (List.mem_append_right _ ht')
  · exact .inr (List.mem_append_left _ ht)

/-- An operation with the outputs `outs` that writes no channel register. -/
theorem PixelKeptOrTaken.of_kept {s t : State} (outs : List Output) (ho : t.obs.outs = s.obs.outs ++ outs)
    (hr : t.blk.r = s.blk.r) (hg : t.blk.g = s.blk.g) (hb : t.blk.b = s.blk.b) : PixelKeptOrTaken s t :=
  ⟨outs, ho, .inl ⟨hr, hg, hb⟩⟩

theorem pixelKeptOrTaken_applyAnswer (a : Answer) (s : State) : PixelKeptOrTaken s (applyAnswer a s) := by
  cases a with
  | some p => exact ⟨[.take], rfl, .inr (List.mem_singleton_self _)⟩
  | none => exact .of_kept [] (by simp [applyAnswer]) rfl rfl rfl
  | notReady => exact .refl s

theorem pixelKeptOrTaken_answerStep (a : Answer) (s : State) : PixelKeptOrTaken s (answerStep a s) := by
  by_cases hm : s.blk.mode = .fetch
  · rw [answerStep_fetch hm]; exact pixelKeptOrTaken_applyAnswer a s
  · rw [answerStep_other hm]; exact .refl s

theorem pixelKeptOrTaken_fetch (s : State) : PixelKeptOrTaken s (fetch s) :=
  pixelKeptOrTaken_applyAnswer _ { s with env := { s.env with source := (pixNext s.env.source).2 } }

theorem pixelKeptOrTaken_startStep (s : State) : PixelKeptOrTaken s (startStep s) := by
  by_cases hm : s.blk.mode = .idle
  · rw [startStep_idle hm]
    exact .trans (.of_kept [] (by simp) rfl rfl rfl) (pixelKeptOrTaken_fetch _)
  · rw [startStep_busy hm]; exact .refl s

theorem pixelKeptOrTaken_byteDone (s : State) : PixelKeptOrTaken s (byteDone s) := by
  obtain hc | hc := chan_cases s.blk.chan
  · rw [byteDone_next hc]; exact .of_kept [] (by simp) rfl rfl rfl
  · rw [byteDone_last hc]
    exact .trans (.of_kept [] (by simp) rfl rfl rfl) (pixelKeptOrTaken_fetch _)

theorem pixelKeptOrTaken_bitDone (s : State) : PixelKeptOrTaken s (bitDone s) := by
  obtain hb | hb := bitIdx_cases s.blk.bitIdx
  · rw [bitDone_inside hb]; exact .of_kept [] (by simp) rfl rfl rfl
  · rw [bitDone_last hb]
    exact .trans (.of_kept [] (by simp) rfl rfl rfl) (pixelKeptOrTaken_byteDone _)

/-- The outputs of a pin operation that a condition guards. -/
theorem pinLowIf_outs (c : Bool) (s : State) :
    (pinLowIf c s).obs.outs = s.obs.outs ++ if c then [.pin .low] else [] := by
  cases c <;> simp

theorem pixelKeptOrTaken_bitStep (p : Profile) (k : TickKind) (s : State) : PixelKeptOrTaken s (bitStep p k s) := by
  obtain hp | hp | hp := phase_cases s.blk.phase
  · rw [bitStep_phase0 hp]
    refine .of_kept _ ((pinLowIf_outs _ _).trans (List.append_assoc s.obs.outs [.pin .high] _)) ?_ ?_ ?_ <;> simp
  · rw [bitStep_phase1 hp]
    refine .of_kept _ (pinLowIf_outs _ _) ?_ ?_ ?_ <;> simp
  · rw [bitStep_phase2 hp]
    refine .trans (.of_kept _ (pinLowIf_outs (bitOut s.blk) (consumeTick k s)) ?_ ?_ ?_)
      (pixelKeptOrTaken_bitDone _) <;> simp

theorem pixelKeptOrTaken_latchStep (k : TickKind) (s : State) : PixelKeptOrTaken s (latchStep k s) := by
  obtain hc | hc | hc := latchCnt_cases s.blk.latchCnt
  · rw [latchStep_zero hc]; exact .refl s
  · rw [latchStep_last hc]; exact .of_kept [.done] rfl rfl rfl rfl
  · rw [latchStep_more hc]; exact .of_kept [] (by simp) rfl rfl rfl

theorem pixelKeptOrTaken_tickStep (p : Profile) (k : TickKind) (s : State) : PixelKeptOrTaken s (tickStep p k s) := by
  cases hm : s.blk.mode with
  | idle => rw [tickStep_idle hm]; exact .refl s
  | fetch => rw [tickStep_fetch hm]; exact .refl s
  | shift => rw [tickStep_shift hm]; exact pixelKeptOrTaken_bitStep p k s
  | latch => rw [tickStep_latch hm]; exact pixelKeptOrTaken_latchStep k s

theorem pixelKeptOrTaken_runTicks (p : Profile) (n : Nat) (s : State) : PixelKeptOrTaken s (runTicks p n s) :=
  runTicks_induction (P := PixelKeptOrTaken s) (fun _ _ h => h)
    (fun k u h => h.trans (pixelKeptOrTaken_tickStep p k u)) n s (.refl s)

/-- Every operation but CONSTRUCT, which is the only one that is `Reset`. -/
theorem pixelKeptOrTaken_effect {i : Instr} (hi : ∀ b, i ≠ .construct b) (s : State) :
    PixelKeptOrTaken s (effect i s) := by
  obtain ⟨b, hb, -⟩ | e | e | ⟨a, e⟩ | ⟨k, e⟩ | ⟨n, ready, -, e⟩ := effect_shape i
  · exact absurd hb (hi b)
  · rw [e]; exact .refl s
  · rw [e]; exact pixelKeptOrTaken_startStep s
  · rw [e]; exact pixelKeptOrTaken_answerStep a s
  · rw [e]; exact pixelKeptOrTaken_tickStep _ k s
  · rw [e]
    split
    · exact pixelKeptOrTaken_runTicks _ n s
    · exact .refl s

/-- Settles O45: what an operation adds to the outputs is what is left of them after the earlier ones. -/
theorem pixelRegistersChangeOnlyWithTake : Obligations.PixelRegistersChangeOnlyWithTake := by
  intro i s t hi h
  rw [exec_eq_effect] at h
  cases h
  obtain ⟨outs, ho, hk⟩ := pixelKeptOrTaken_effect hi s
  rwa [ho, List.drop_left]

/-! ### The count of consumed ticks -/

@[simp] theorem bitStep_ticks (p : Profile) (k : TickKind) (s : State) :
    (bitStep p k s).blk.ticks = s.blk.ticks + 1 := by
  obtain h | h | h := phase_cases s.blk.phase
  · simp [bitStep_phase0 h]
  · simp [bitStep_phase1 h]
  · simp [bitStep_phase2 h]

/-- A tick of the latch interval is consumed, the count never being 0 there. -/
theorem latchStep_ticks {s : State} (k : TickKind) (h : s.blk.latchCnt.val ≠ 0) :
    (latchStep k s).blk.ticks = s.blk.ticks + 1 := by
  obtain hc | hc | hc := latchCnt_cases s.blk.latchCnt
  · exact absurd hc h
  · rw [latchStep_last hc]
  · rw [latchStep_more hc]

theorem Inv.tickStep_ticks {s : State} (h : Inv s) (p : Profile) (k : TickKind) :
    (Machine.tickStep p k s).blk.ticks =
      s.blk.ticks + if s.blk.mode = .shift ∨ s.blk.mode = .latch then 1 else 0 := by
  cases hm : s.blk.mode with
  | idle => simp [tickStep_idle hm]
  | fetch => simp [tickStep_fetch hm]
  | shift => simp [tickStep_shift hm]
  | latch => simp [tickStep_latch hm, latchStep_ticks k (h.latchPositive hm)]

theorem startStep_ticks (s : State) : (startStep s).blk.ticks = if s.blk.mode = .idle then 0 else s.blk.ticks := by
  split
  next hm => rw [startStep_idle hm, fetch_ticks]
  next hm => rw [startStep_busy hm]

@[simp] theorem answerStep_ticks (a : Answer) (s : State) : (answerStep a s).blk.ticks = s.blk.ticks := by
  by_cases hm : s.blk.mode = .fetch
  · rw [answerStep_fetch hm]; cases a <;> rfl
  · rw [answerStep_other hm]

/-- The pair `00` is no tick (R93); every other pair is one. -/
theorem Inv.effect_tick_ticks {s : State} (h : Inv s) (a b : Bool) :
    (effect (.tick a b) s).blk.ticks =
      s.blk.ticks + if (s.blk.mode = .shift ∨ s.blk.mode = .latch) ∧ (a || b) = true then 1 else 0 := by
  cases hk : tickKindOf a b with
  | none =>
    have hab : (a || b) = false := by revert hk; cases a <;> cases b <;> simp [tickKindOf]
    simp [effect, exec, execTick, hk, hab]
  | some k =>
    have hab : (a || b) = true := by revert hk; cases a <;> cases b <;> simp [tickKindOf]
    simp [effect, exec, execTick, hk, hab, h.tickStep_ticks]

/-- Settles O46, operation by operation. -/
theorem ticksCountsConsumedTicks : Obligations.TicksCountsConsumedTicks := by
  intro s t h
  simp only [exec_eq_effect, Host.Outcome.next.injEq]
  refine ⟨fun a b he => he ▸ h.effect_tick_ticks a b, fun he => he ▸ startStep_ticks s, fun d v he => ?_⟩
  obtain he | he | he | he := he <;> rw [← he]
  · rfl
  · exact answerStep_ticks _ s
  · exact answerStep_ticks _ s
  · exact answerStep_ticks _ s

/-! ### Reset -/

/-- Settles O1: the reset state has IDLE, the low line, the cleared ghosts and no counter by definition. -/
theorem resetIsIdleWithTheLineLow : Obligations.ResetIsIdleWithTheLineLow :=
  ⟨rfl, rfl, rfl, rfl, rfl, rfl⟩

end Machine
end Sys2Proof
end

section
/-! Proofs of the memory family: the order of a pixel's bytes, `{r, g, b}` in the port word (R55, R86) and green, red,
blue on the wire (R53, R89). -/

namespace Sys2Proof
namespace Machine

/-- The three bytes read from the port word are side by side and fill it (R55, R86). -/
@[simp] theorem dataOfPixel_pixelOfData (d : PxData) : dataOfPixel (pixelOfData d) = d := by
  have hrg : d.extractLsb' 16 8 ++ d.extractLsb' 8 8 = d.extractLsb' 8 16 :=
    BitVec.extractLsb'_append_extractLsb'_eq_extractLsb' rfl
  have hrgb : d.extractLsb' 8 16 ++ d.extractLsb' 0 8 = d.extractLsb' 0 24 :=
    BitVec.extractLsb'_append_extractLsb'_eq_extractLsb' rfl
  calc dataOfPixel (pixelOfData d)
      = d.extractLsb' 16 8 ++ d.extractLsb' 8 8 ++ d.extractLsb' 0 8 := rfl
    _ = d.extractLsb' 0 24 := by rw [hrg, hrgb]
    _ = d := BitVec.extractLsb'_eq_self

/-- Settles O36: the two readings of the port word are inverse to each other, and `sel` gives the wire order. -/
theorem portOrderAndWireOrder : Obligations.PortOrderAndWireOrder := by
  refine ⟨pixelOfData_dataOfPixel, dataOfPixel_pixelOfData, fun b => ?_, by decide⟩
  simp [channelByte_eq]

end Machine
end Sys2Proof
end

section
/-! Proofs of the encoding family: decoder and encoder, the table's words and counts, the bits of a shifted byte, and
what the closed form of a frame's log shows and reads back to. -/

namespace Sys2Proof

/-! ### Decode and encode -/

/-- Settles O33: each word of the table is a fixed number, read by computing the decoder on it. -/
theorem tableWordsDecodeToTheirRows : Obligations.TableWordsDecodeToTheirRows := by
  unfold Obligations.TableWordsDecodeToTheirRows
  decide

/-- The word of every operation is as narrow as its port: the family `EncodeFits`, put together. -/
theorem encode_fits : ∀ i : Instr, (encode i).bits < 2 ^ (encode i).fmt.width
  | .construct s => Laws.EncodeFits.construct s
  | .write => Laws.EncodeFits.write
  | .nop => Laws.EncodeFits.nop
  | .fetchSome d => Laws.EncodeFits.fetchSome d
  | .fetchNone v => Laws.EncodeFits.fetchNone v
  | .fetchWait => Laws.EncodeFits.fetchWait
  | .pixel r g b => Laws.EncodeFits.pixel r g b
  | .byte v => Laws.EncodeFits.byte v
  | .bit1Std => Laws.EncodeFits.bit1Std
  | .bit0Std => Laws.EncodeFits.bit0Std
  | .bit1Slow => Laws.EncodeFits.bit1Slow
  | .bit0Slow => Laws.EncodeFits.bit0Slow
  | .latch => Laws.EncodeFits.latch
  | .tick t e => Laws.EncodeFits.tick t e

/-- A pixel word is taken apart into the bytes it was put together from (R85). -/
theorem decodeIn_pixel (r g b : Byte) : decodeIn .pixw (encode (.pixel r g b)).bits = .ok (.pixel r g b) := by
  have hr := r.isLt
  have hg := g.isLt
  have hb := b.isLt
  simp only [decodeIn, encode, Except.ok.injEq, Instr.pixel.injEq]
  refine ⟨?_, ?_, ?_⟩ <;> apply BitVec.eq_of_toNat_eq <;> rw [BitVec.toNat_ofNat] <;> omega

/-- The tables of the decoder and the encoder agree row by row (R91 to R93, R101, R84, R85, R87). -/
theorem decodeIn_encode (i : Instr) (h : i.wf = true) : decodeIn (encode i).fmt (encode i).bits = .ok i := by
  cases i with
  | construct s => cases s <;> rfl
  | write => rfl
  | nop => rfl
  | fetchSome d => simp [encode, decodeIn, decodePxr]
  | fetchNone v => simp [encode, decodeIn, decodePxr]
  | fetchWait => rfl
  | pixel r g b => exact decodeIn_pixel r g b
  | byte v => simp [encode, decodeIn]
  | bit1Std => rfl
  | bit0Std => rfl
  | bit1Slow => rfl
  | bit0Slow => rfl
  | latch => rfl
  | tick t e =>
    cases t <;> cases e
    · cases h
    all_goals rfl

/-- Settles O34: the word of an operation fits its port, and is then read by the table it was written from. -/
theorem decodeEncodeIsIdentity : Obligations.DecodeEncodeIsIdentity := fun i h => by
  rw [decode_of_fits (encode_fits i), decodeIn_encode i h]

theorem decodeCmd_wf (b : Nat) : (decodeCmd b).wf = true := by
  unfold decodeCmd
  split
  · rfl
  · split <;> rfl

theorem decodePxr_wf (w : PxWord) : (decodePxr w).wf = true := by
  unfold decodePxr
  split
  · rfl
  · split <;> rfl

/-- The pair `00` is read as NOP and not as a tick (R93). -/
theorem decodeTkr_wf (b : Nat) : (decodeTkr b).wf = true := by
  unfold decodeTkr
  split
  · assumption
  · rfl

theorem decodeSym_wf (b : Nat) : (decodeSym b).wf = true := by
  unfold decodeSym
  split <;> rfl

/-- What a format reads is a well-formed operation. -/
theorem decodeIn_wf {f : Format} {b : Nat} {i : Instr} (h : decodeIn f b = .ok i) : i.wf = true := by
  cases f with
  | cmd => cases h; exact decodeCmd_wf b
  | pxr => cases h; exact decodePxr_wf _
  | tkr => cases h; exact decodeTkr_wf b
  | sym => cases h; exact decodeSym_wf b
  | byte8 => cases h; rfl
  | pixw => cases h; rfl
  | frame =>
    simp only [decodeIn] at h
    split at h <;> cases h
    rfl

/-- Of the words that fit their port, only a latch field that is not low is rejected (R87). -/
theorem decodeIn_rejects_iff (f : Format) (b : Nat) : (∃ e, decodeIn f b = .error e) ↔ f = .frame ∧ b ≠ 0 := by
  cases f with
  | frame => by_cases hb : b = 0 <;> simp [decodeIn, hb]
  | _ => simp [decodeIn]

/-- Settles O35: a word too wide for its port is rejected, and any other is read in its format. -/
theorem decodeRejectsExactlyTheNonWords : Obligations.DecodeRejectsExactlyTheNonWords := by
  intro w
  obtain hwide | hfits := le_or_gt (2 ^ w.fmt.width) w.bits
  · simp [decode_of_tooWide hwide, hwide]
  · rw [decode_of_fits hfits, decodeIn_rejects_iff]
    exact ⟨fun i => decodeIn_wf, by simp [Nat.not_le.mpr hfits]⟩

namespace Machine

/-! ### Operations that are not selected -/

/-- A symbol is ready where the block is at its first tick with its selector (R101, R110). -/
theorem symbolReady_iff {p : Profile} {v : Bool} {s : State} : symbolReady p v s = true ↔
    s.blk.mode = .shift ∧ s.blk.phase = 0 ∧ s.build.profile = p ∧ bitOut s.blk = v := by
  simp [symbolReady, and_assoc]

theorem byteReady_iff {v : Byte} {s : State} : byteReady v s = true ↔
    s.blk.mode = .shift ∧ s.blk.phase = 0 ∧ s.blk.bitIdx = 0 ∧ s.blk.sh = v := by
  simp [byteReady, and_assoc]

theorem pixelReady_iff {r g b : Byte} {s : State} : pixelReady r g b s = true ↔
    byteReady g s = true ∧ s.blk.chan = 0 ∧ s.blk.r = r ∧ s.blk.g = g ∧ s.blk.b = b := by
  simp [pixelReady, and_assoc]

theorem latchReady_iff {s : State} : latchReady s = true ↔ s.blk.mode = .latch ∧ s.blk.latchCnt = 900 := by
  simp only [latchReady, Bool.and_eq_true, decide_eq_true_eq, Fin.ext_iff]
  rfl

/-- The symbol of a selector, where one of its conditions fails, is not sent (log 8). -/
theorem exec_selectedSymbol_unready {p : Profile} {v : Bool} {s : State}
    (h : s.blk.mode ≠ .shift ∨ s.blk.phase ≠ 0 ∨ s.build.profile ≠ p ∨ bitOut s.blk ≠ v) :
    exec (selectedSymbol p v) s = .next s := by
  rw [exec_selectedSymbol, symbol, if_neg (by rw [symbolReady_iff]; tauto)]

theorem exec_byte_unready {v : Byte} {s : State}
    (h : s.blk.mode ≠ .shift ∨ s.blk.phase ≠ 0 ∨ s.blk.bitIdx ≠ 0 ∨ s.blk.sh ≠ v) :
    exec (.byte v) s = .next s :=
  congrArg _ (if_neg (by rw [byteReady_iff]; tauto))

theorem exec_pixel_unready {r g b : Byte} {s : State}
    (h : s.blk.mode ≠ .shift ∨ s.blk.phase ≠ 0 ∨ s.blk.bitIdx ≠ 0 ∨ s.blk.chan ≠ 0 ∨
      s.blk.r ≠ r ∨ s.blk.g ≠ g ∨ s.blk.b ≠ b ∨ s.blk.sh ≠ g) :
    exec (.pixel r g b) s = .next s :=
  congrArg _ (if_neg (by rw [pixelReady_iff, byteReady_iff]; tauto))

theorem exec_latch_unready {s : State} (h : s.blk.mode ≠ .latch ∨ s.blk.latchCnt ≠ 900) :
    exec .latch s = .next s :=
  congrArg _ (if_neg (by rw [latchReady_iff]; tauto))

/-- Settles O23: each clause denies one of the conditions under which the operation is ready. -/
theorem unselectedOperationsChangeNothing : Obligations.UnselectedOperationsChangeNothing := by
  intro s
  refine ⟨fun h => ?_, fun h => ?_, fun h => ?_, fun h => ?_, fun h => ?_, fun v h => ?_, fun r g b h => ?_,
    fun h => ?_⟩
  · have hsym : ∀ p v, exec (selectedSymbol p v) s = .next s := fun p v =>
      exec_selectedSymbol_unready (h.imp_right .inl)
    exact ⟨hsym .std true, hsym .std false, hsym .slow true, hsym .slow false,
      fun v => exec_byte_unready (h.imp_right .inl), fun r g b => exec_pixel_unready (h.imp_right .inl)⟩
  · have hsym : ∀ v, exec (selectedSymbol .std v) s = .next s := fun v =>
      exec_selectedSymbol_unready (.inr (.inr (.inl h)))
    exact ⟨hsym true, hsym false⟩
  · have hsym : ∀ v, exec (selectedSymbol .slow v) s = .next s := fun v =>
      exec_selectedSymbol_unready (.inr (.inr (.inl h)))
    exact ⟨hsym true, hsym false⟩
  · have hsym : ∀ p, exec (selectedSymbol p true) s = .next s := fun p =>
      exec_selectedSymbol_unready (.inr (.inr (.inr (by simp [h]))))
    exact ⟨hsym .std, hsym .slow⟩
  · have hsym : ∀ p, exec (selectedSymbol p false) s = .next s := fun p =>
      exec_selectedSymbol_unready (.inr (.inr (.inr (by simp [h]))))
    exact ⟨hsym .std, hsym .slow⟩
  · exact exec_byte_unready (.inr (.inr h))
  · exact exec_pixel_unready (.inr (.inr h))
  · exact exec_latch_unready h

/-! ### Ticks and transitions of the strings -/

section
variable {q : Micro → Bool} {c : Nat}

/-- A string put together from parts that each have `c` of the counted micro-operations. -/
theorem countP_flatMap_of_const {α : Type} {f : α → List Micro} (h : ∀ a, (f a).countP q = c) (as : List α) :
    (as.flatMap f).countP q = c * as.length := by
  have hparts : as.map (List.countP q ∘ f) = List.replicate as.length c :=
    List.eq_replicate_iff.mpr ⟨List.length_map _, by simp [h]⟩
  rw [List.countP_flatMap, hparts, List.sum_replicate_nat, Nat.mul_comm]

variable {p : Profile} (h : ∀ v, (symbolMicro p v).countP q = c)
include h

/-- A byte is eight symbols (R100, R132). -/
theorem countP_byteMicro (v : Byte) : (byteMicro p v).countP q = c * 8 := countP_flatMap_of_const h (byteBits v)

/-- A pixel is three bytes (R100, R150). -/
theorem countP_pixelMicro (x : Pixel) : (pixelMicro p x).countP q = c * 8 * 3 :=
  countP_flatMap_of_const (countP_byteMicro h) (pixelBytes x)

/-- A frame is its pixels and the latch interval (R100, R151). -/
theorem countP_frameMicro (ps : List Pixel) :
    (frameMicro p ps).countP q = c * 8 * 3 * ps.length + latchMicro.countP q := by
  rw [frameMicro, List.countP_append, countP_flatMap_of_const (countP_pixelMicro h)]

end

theorem countW_symbolMicro (p : Profile) (v : Bool) : countW (symbolMicro p v) = 3 := by cases p <;> cases v <;> rfl

theorem countPin_symbolMicro (p : Profile) (v : Bool) : countPin (symbolMicro p v) = 2 := by
  cases p <;> cases v <;> rfl

theorem countW_latchMicro : countW latchMicro = 900 := by
  rw [countW, latchMicro, List.countP_replicate]
  rfl

theorem countPin_latchMicro : countPin latchMicro = 0 := by
  rw [countPin, latchMicro, List.countP_replicate]
  rfl

/-- Settles O28: the counts of the symbols and of the latch, carried up the composition of the strings. -/
theorem stringsHaveTheTableCounts : Obligations.StringsHaveTheTableCounts :=
  ⟨fun p v => ⟨countW_symbolMicro p v, countPin_symbolMicro p v⟩,
    fun p v => ⟨countP_byteMicro (countW_symbolMicro p) v, countP_byteMicro (countPin_symbolMicro p) v⟩,
    fun p x => ⟨countP_pixelMicro (countW_symbolMicro p) x, countP_pixelMicro (countPin_symbolMicro p) x⟩,
    ⟨countW_latchMicro, countPin_latchMicro⟩,
    fun p ps => ⟨(countP_frameMicro (countW_symbolMicro p) ps).trans (congrArg _ countW_latchMicro),
      (countP_frameMicro (countPin_symbolMicro p) ps).trans (congrArg _ countPin_latchMicro)⟩⟩

/-! ### A byte and its shifts -/

/-- After `m` shifts the bit at `SH[7]` is bit `7 - m` (R90, R133). -/
theorem getLsbD_seven_shiftLeft (v : Byte) {m : Nat} (hm : m ≤ 7) : (v <<< m).getLsbD 7 = v.getLsbD (7 - m) := by
  rw [BitVec.getLsbD_shiftLeft]
  simp only [Nat.not_lt.mpr hm, decide_false, Bool.not_false, Bool.and_true]
  rfl

/-- The bits of a byte in the order sent are the top bits of its successive shifts (R52, R133). -/
theorem byteBits_eq_topBits (v : Byte) : byteBits v = (List.range 8).map fun j => (v <<< j).getLsbD 7 :=
  List.map_congr_left fun _ hj =>
    (getLsbD_seven_shiftLeft v (Nat.le_of_lt_succ (List.mem_range.mp hj))).symm

/-- Settles O37: a shift is a multiplication modulo 256, which eight shifts make 0. -/
theorem shiftedByteShowsItsBitsMsbFirst : Obligations.ShiftedByteShowsItsBitsMsbFirst := fun v _ =>
  ⟨fun hm => ⟨getLsbD_seven_shiftLeft v hm, by rw [BitVec.toNat_shiftLeft, Nat.shiftLeft_eq],
    byteBits_eq_topBits v⟩, fun hm => BitVec.shiftLeft_eq_zero hm⟩

/-! ### Reading the log back -/

/-- The distance from the rise to the fall names the bit (R97, R119). -/
@[simp] theorem readFall_toff (p : Profile) (v : Bool) : readFall p (toff p v) = some v := by
  cases p <;> cases v <;> rfl

/-- The reader takes one symbol and goes on three slots later (R97). -/
theorem readLog_symbolLog_append (p : Profile) (v : Bool) (t : Nat) (log : List (Level × Nat)) :
    readLog p t (symbolLog p v t ++ log) = (readLog p (t + 3) log).map (v :: ·) := by
  simp only [symbolLog, List.cons_append, List.nil_append, readLog, Nat.le_add_right, and_self, if_true,
    Nat.add_sub_cancel_left, readFall_toff]
  cases readLog p (t + 3) log <;> rfl

/-- Every run of symbols reads back to its bits, wherever it begins. -/
theorem readLog_bitsLog (p : Profile) (t : Nat) (bits : List Bool) : readLog p t (bitsLog p t bits) = some bits := by
  induction bits generalizing t with
  | nil => rfl
  | cons v bits ih => rw [bitsLog_cons, readLog_symbolLog_append, ih, Option.map_some]

/-- Settles O38: a frame is a run of symbols from slot 0. -/
theorem logReadsBackToTheBits : Obligations.LogReadsBackToTheBits := fun p ps => readLog_bitsLog p 0 (frameBits ps)

/-! ### Slot by slot -/

/-- With no changes the line is low (R17). -/
theorem slotOf_nil : slotOf [] = fun _ => .low := rfl

/-- Changes after slot `k` are not seen in it. -/
theorem slotOf_append_later {log later : List (Level × Nat)} {k : Nat} (h : ∀ e ∈ later, k < e.2) :
    slotOf (log ++ later) k = slotOf log k := by
  have hbefore : later.filter (fun e => decide (e.2 < k)) = [] :=
    List.filter_eq_nil_iff.mpr fun e he => by simpa using (h e he).le
  have hinside : later.filter (fun e => decide (e.2 = k)) = [] :=
    List.filter_eq_nil_iff.mpr fun e he => by simpa using (h e he).ne'
  simp only [slotOf, List.filter_append, hbefore, hinside, List.append_nil]

/-- The fall is in one of the symbol's own slots (R81, R119). -/
theorem toff_lt (p : Profile) (v : Bool) : toff p v < 3 := by
  cases p <;> cases v <;> decide

/-- A symbol that is over has left the line low, as it was before it (R81, R118). -/
theorem slotOf_symbolLog_append (p : Profile) (v : Bool) {t k : Nat} (hk : t + 3 ≤ k) (log : List (Level × Nat)) :
    slotOf (symbolLog p v t ++ log) k = slotOf log k := by
  have hrise : t < k := by omega
  have hfall : t + toff p v < k := by have := toff_lt p v; omega
  simp [slotOf, symbolLog, hrise, hrise.ne, hfall, hfall.ne, List.getLast?_cons]

/-- The three slots of a symbol show its waveform (R82, R83, R119). -/
theorem slotOf_symbolLog (p : Profile) (v : Bool) (t : Nat) :
    (List.range' t 3).map (slotOf (symbolLog p v t)) = symbolWave p v := by
  have hslots : List.range' t 3 = [t, t + 1, t + 2] := rfl
  cases p <;> cases v <;>
    simp [hslots, slotOf, symbolLog, symbolWave, toff, Config.t1hStd, Config.t0hStd, Config.t1hSlow, Config.t0hSlow]

/-- The log of a run of symbols is empty before its first slot. -/
theorem le_of_mem_bitsLog {p : Profile} {t : Nat} {bits : List Bool} {e : Level × Nat} (h : e ∈ bitsLog p t bits) :
    t ≤ e.2 := by
  simp only [bitsLog, symbolLog, List.mem_flatMap, List.mem_cons, List.not_mem_nil, or_false] at h
  obtain ⟨vj, -, rfl | rfl⟩ := h <;> simp only <;> omega

/-- A run of symbols shows their waveforms one after the other, and low slots from its end on. -/
theorem slotOf_bitsLog (p : Profile) (t n : Nat) (bits : List Bool) :
    (List.range' t (3 * bits.length + n)).map (slotOf (bitsLog p t bits)) =
      bits.flatMap (symbolWave p) ++ List.replicate n .low := by
  induction bits generalizing t with
  | nil => simp [slotOf_nil]
  | cons v bits ih =>
    have hhead : (List.range' t 3).map (slotOf (symbolLog p v t ++ bitsLog p (t + 3) bits)) = symbolWave p v := by
      rw [← slotOf_symbolLog p v t]
      refine List.map_congr_left fun k hk => slotOf_append_later fun e he => ?_
      have hkt := List.mem_range'_1.mp hk
      have het := le_of_mem_bitsLog he
      omega
    have htail : (List.range' (t + 3) (3 * bits.length + n)).map (slotOf (symbolLog p v t ++ bitsLog p (t + 3) bits)) =
        bits.flatMap (symbolWave p) ++ List.replicate n .low := by
      rw [← ih (t + 3)]
      exact List.map_congr_left fun k hk => slotOf_symbolLog_append p v (List.mem_range'_1.mp hk).1 _
    have hlen : 3 * (v :: bits).length + n = 3 + (3 * bits.length + n) := by rw [List.length_cons]; omega
    rw [hlen, ← List.range'_append_1, List.map_append, bitsLog_cons, hhead, htail, List.flatMap_cons,
      List.append_assoc]

/-- The frame's waveform is the symbol waveforms of its bits and then the latch field (R84, R85, R87). -/
theorem frameWave_eq (p : Profile) (ps : List Pixel) :
    frameWave p ps = (frameBits ps).flatMap (symbolWave p) ++ List.replicate 900 .low := by
  have hbyte : byteWave p = fun v => (byteBits v).flatMap (symbolWave p) := rfl
  have hpixel : pixelWave p = fun x => (pixelBits x).flatMap (symbolWave p) := by
    funext x
    rw [pixelWave, pixelBits, hbyte, List.flatMap_assoc]
  rw [frameWave, frameBits, hpixel, List.flatMap_assoc]
  rfl

/-- Settles O39: a frame is a run of `24N` symbols from slot 0, with 900 slots after it. -/
theorem logShowsTheFrameWaveform : Obligations.LogShowsTheFrameWaveform := by
  intro p ps
  have hslots : 72 * ps.length + 900 = 3 * (frameBits ps).length + 900 := by rw [frameBits_length]; omega
  rw [hslots, List.range_eq_range', frameLog, slotOf_bitsLog, frameWave_eq]

end Machine
end Sys2Proof
end

section
/-! Proofs of the bit encoder family: what the operations of the four symbols do, and what each of the three ticks of
a symbol does. -/

namespace Sys2Proof
namespace Machine

/-! ### The four symbols -/

/-- The ready symbol of a selector goes through its three ticks: its two entries of the closed form (R119), then the
hand-over (R120). -/
theorem exec_selectedSymbol_sent {p : Profile} {v : Bool} {s : State} {k₁ k₂ k₃ : TickKind} {ks : List TickKind}
    (hm : s.blk.mode = .shift) (hp : s.blk.phase = 0) (hb : s.build.profile = p) (hv : bitOut s.blk = v)
    (hw : s.env.waits = k₁ :: k₂ :: k₃ :: ks) :
    exec (selectedSymbol p v) s = .next (bitDone
      { s with
        env := { s.env with waits := ks }
        blk := { s.blk with ticks := s.blk.ticks + 3, diagErr := countFails [k₁, k₂, k₃] s.blk.diagErr, dout := .low
                            log := s.blk.log ++ symbolLog p v s.blk.ticks }
        obs := { s.obs with outs := s.obs.outs ++ [.pin .high, .pin .low] } }) := by
  subst hb hv
  rw [exec_selectedSymbol_ready hm hp, runTicks_symbol hm hp (by simp [hw]), afterWire, hw]
  rfl

/-- Settles O18: the standard 1 falls two ticks after its rise. -/
theorem bit1StdIsHighTwoLowOne : Obligations.Bit1StdIsHighTwoLowOne := fun _ _ _ _ _ =>
  exec_selectedSymbol_sent

/-- Settles O19: the standard 0 falls one tick after its rise. -/
theorem bit0StdIsHighOneLowTwo : Obligations.Bit0StdIsHighOneLowTwo := fun _ _ _ _ _ =>
  exec_selectedSymbol_sent

/-- Settles O20: the slow 1 falls two ticks after its rise. -/
theorem bit1SlowIsHighTwoLowOne : Obligations.Bit1SlowIsHighTwoLowOne := fun _ _ _ _ _ =>
  exec_selectedSymbol_sent

/-- Settles O21: the slow 0 falls in the tick of its rise. -/
theorem bit0SlowIsAPulseThenLow : Obligations.Bit0SlowIsAPulseThenLow := fun _ _ _ _ _ =>
  exec_selectedSymbol_sent

/-! ### The three ticks of a symbol -/

/-- A tick of either kind in SHIFT is a `BitStep` (R93, R141). -/
theorem exec_tick_shift {t e : Bool} {k : TickKind} {s : State} (hk : tickKindOf t e = some k)
    (hm : s.blk.mode = .shift) : exec (.tick t e) s = .next (bitStep s.build.profile k s) := by
  simp only [exec, execTick, hk, tickStep_shift hm]

/-- A conditional fall, by what its condition says. -/
theorem pinLowIf_eq_ite {c : Bool} {P : Prop} [Decidable P] (hc : c = true ↔ P) (s : State) :
    pinLowIf c s = if P then pin .low s else s := by
  simp only [pinLowIf, hc]

/-- The bit is a 0 and the profile the one in which a 0 falls at this phase (R115). -/
theorem zeroFalls_iff {p q : Profile} {v : Bool} : (decide (p = q) && !v) = true ↔ p = q ∧ v = false := by
  simp

/-- Two pin calls in one tick are entered with that tick, in their order (R15, R34). -/
theorem pin_pin (l m : Level) (s : State) :
    pin m (pin l s) =
      { s with
        blk := { s.blk with dout := m, log := s.blk.log ++ [(l, s.blk.ticks - 1), (m, s.blk.ticks - 1)] }
        obs := { s.obs with outs := s.obs.outs ++ [.pin l, .pin m] } } := by
  simp [pin, emit]

/-- Settles O10: the rise, and in the slow profile the fall of a 0 after it. -/
theorem firstTickOfASymbolRaisesTheLine : Obligations.FirstTickOfASymbolRaisesTheLine := by
  intro s t e k hk hm hp
  rw [exec_tick_shift hk hm, bitStep_phase0 hp, pinLowIf_eq_ite zeroFalls_iff, pin_pin]
  split <;> rfl

/-- Settles O11: the fall of a standard 0, or no pin call. -/
theorem secondTickLowersAStandardZero : Obligations.SecondTickLowersAStandardZero := by
  intro s t e k hk hm hp
  rw [exec_tick_shift hk hm, bitStep_phase1 hp, pinLowIf_eq_ite zeroFalls_iff]
  split <;> rfl

/-- Settles O12: the fall of a 1, or no pin call, and `BitDone` of what it leaves. -/
theorem thirdTickLowersAOneAndHandsOver : Obligations.ThirdTickLowersAOneAndHandsOver := by
  intro s t e k hk hm hp
  rw [exec_tick_shift hk hm, bitStep_phase2 hp, pinLowIf_eq_ite Iff.rfl]
  split <;> rfl

end Machine
end Sys2Proof
end

section
/-! Proofs of the byte encoder family: the ticks of a whole byte, the end of a bit, and the high slots of a byte. -/

namespace Sys2Proof
namespace Machine

/-! ### The byte -/

/-- The byte that is ready runs its 24 ticks (R130). -/
theorem exec_byte_ready {v : Byte} {s : State} (h : byteReady v s = true) :
    exec (.byte v) s = .next (runTicks s.build.profile 24 s) :=
  congrArg _ (if_pos h)

/-- Settles O24: the byte is ready, and its ticks send the bits of the shift register. -/
theorem byteSendsEightSymbolsMsbFirst : Obligations.ByteSendsEightSymbolsMsbFirst := by
  intro s v hm hp hb hsh hw
  have hstart : atByte s.blk.chan 0 s = { s with blk := { s.blk with sh := 0 } } := by rw [atByte, ← hb]
  rw [exec_byte_ready (byteReady_iff.mpr ⟨hm, hp, hb, hsh⟩), runTicks_byte hm hp hb hw, hsh, hstart]

/-! ### The end of a bit -/

/-- The eighth bit of the first or the second byte: the next channel byte is loaded over the shift (R131, R144). -/
theorem bitDone_nextByte {s : State} (hb : s.blk.bitIdx = 7) (hc : s.blk.chan.val < 2) :
    bitDone s = { s with blk := { s.blk with
      sh := channelByte s.blk (s.blk.chan + 1), bitIdx := 0, chan := s.blk.chan + 1 } } := by
  rw [bitDone_last hb, byteDone_next (by exact hc)]
  simp only [channelByte_eq]

/-- Settles O13: inside a byte, after the green, the red and the blue byte. -/
theorem bitDoneCountsBitsBytesAndPixels : Obligations.BitDoneCountsBitsBytesAndPixels := by
  refine ⟨fun s hb => ?_, fun s hb hc => ?_, fun s hb hc => ?_, fun s hb hc => ?_⟩
  · exact bitDone_inside ((bitIdx_cases s.blk.bitIdx).resolve_right hb)
  · rw [bitDone_nextByte hb (by simp [hc]), channelByte_eq, hc]
    rfl
  · rw [bitDone_nextByte hb (by simp [hc]), channelByte_eq, hc]
    rfl
  · rw [bitDone_last hb, byteDone_last (by exact hc)]
    rfl

/-! ### The high slots of a byte -/

/-- Where every symbol is high throughout `a` slots, and a 1 throughout `c` more, so are the symbols of a run of bits. -/
theorem countP_high_flatMap_symbolWave {p : Profile} {a c : Nat}
    (h : ∀ v, (symbolWave p v).countP (· = .high) = a + c * v.toNat) (bits : List Bool) :
    (bits.flatMap (symbolWave p)).countP (· = .high) = a * bits.length + c * bits.countP (· = true) := by
  induction bits with
  | nil => rfl
  | cons v bits ih =>
    have hone : (v :: bits).countP (· = true) = v.toNat + bits.countP (· = true) := by
      cases v <;> simp [Nat.add_comm]
    rw [List.flatMap_cons, List.countP_append, h, ih, List.length_cons, hone]
    ring

/-- A standard 0 is high throughout one slot and a standard 1 throughout two (R82). -/
theorem countP_high_symbolWave_std (v : Bool) : (symbolWave .std v).countP (· = .high) = 1 + 1 * v.toNat := by
  cases v <;> rfl

/-- A slow 0 is a pulse, high throughout no slot, and a slow 1 throughout two (R83; the spec's decision D9, log 12). -/
theorem countP_high_symbolWave_slow (v : Bool) : (symbolWave .slow v).countP (· = .high) = 0 + 2 * v.toNat := by
  cases v <;> rfl

/-- Settles O40: a byte's waveform is the symbol waveforms of its eight bits. -/
theorem highSlotsOfAByte : Obligations.HighSlotsOfAByte := by
  intro v
  have hstd := countP_high_flatMap_symbolWave countP_high_symbolWave_std (byteBits v)
  have hslow := countP_high_flatMap_symbolWave countP_high_symbolWave_slow (byteBits v)
  rw [byteBits_length, Nat.one_mul, Nat.one_mul] at hstd
  rw [Nat.zero_mul, Nat.zero_add] at hslow
  exact ⟨hstd, hslow⟩

end Machine
end Sys2Proof
end

section
/-! Proofs of the frame encoder family: the start of a frame and the pull, the tick in every mode, pixels and the latch
as composed operations, the closed form of a frame's log, and whole frames from prompt and from late sources. -/

namespace Sys2Proof
namespace Machine

/-! ### The start of a frame -/

/-- `WRITE` in IDLE is the first pull of its frame (R142). -/
theorem exec_write_idle {s : State} (hm : s.blk.mode = .idle) :
    exec .write s = .next (fetch (started s.env.offer s.env.inputs s)) :=
  congrArg _ (startStep_idle hm)

/-- Settles O4: the first pull finds a pixel. -/
theorem writeWithAPixelStartsShifting : Obligations.WriteWithAPixelStartsShifting := by
  intro s w ws p hm hs hw
  rw [exec_write_idle hm, fetch_some (s := started _ _ s) hs hw]
  rfl

/-- Settles O5: the first pull finds the end of the source. -/
theorem writeOfNothingStartsTheLatch : Obligations.WriteOfNothingStartsTheLatch := by
  intro s hm hs
  rw [exec_write_idle hm, fetch_none (s := started _ _ s) hs]
  rfl

/-- Settles O6: the first pull finds no answer yet. -/
theorem writeWithALateSourceStalls : Obligations.WriteWithALateSourceStalls := by
  intro s w ws hm hs hw
  rw [exec_write_idle hm, fetch_notReady (s := started _ _ s) hs hw]
  rfl

/-! ### The answer of the source and the pull -/

/-- Settles O7: the answer is a pixel, the one laid out in the port word. -/
theorem fetchSomeCapturesThePixel : Obligations.FetchSomeCapturesThePixel := fun _ _ hm =>
  congrArg _ (answerStep_fetch hm)

/-- Settles O8: the answer is the end of the source. -/
theorem fetchNoneLoadsTheLatchCounter : Obligations.FetchNoneLoadsTheLatchCounter := fun _ _ hm =>
  congrArg _ (answerStep_fetch hm)

/-- Settles O9: the answer is "not ready". -/
theorem fetchWaitStaysInFetch : Obligations.FetchWaitStaysInFetch := fun _ hm =>
  congrArg _ (answerStep_fetch hm)

/-- Settles O14: the three answers a pull can find. -/
theorem pullActsOnTheAnswer : Obligations.PullActsOnTheAnswer :=
  ⟨fun _ _ _ _ => fetch_some, fun _ => fetch_none, fun _ _ _ => fetch_notReady⟩

/-- The word on the pixel port in FETCH is acted on as the answer it shows (R92, R143). -/
theorem exec_decodePxr_fetch {s : State} (w : PxWord) (hm : s.blk.mode = .fetch) :
    exec (decodePxr w) s = .next (applyAnswer (answerOf w) s) := by
  rw [exec_eq_effect, effect_decodePxr, answerStep_fetch hm]

/-- Settles O30: the pull that a `Poll` makes is the answer of the source's next word, or of its end. -/
theorem pollRunsTheSourcesAnswer : Obligations.PollRunsTheSourcesAnswer := by
  intro s rest hi
  refine ⟨step_poll_other hi, fun hm hs => ?_, fun w ws hm hs => ?_⟩
  · have hend : Instr.fetchNone false = decodePxr pxNone := rfl
    rw [step_poll_fetch hi hm, hend, exec_decodePxr_fetch _ (by exact hm), fetch, hs, pixNext_nil, ← hs]
    rfl
  · rw [step_poll_fetch hi hm, exec_decodePxr_fetch _ (by exact hm), fetch, hs, pixNext_cons]

/-! ### One tick -/

/-- The pair on the tick port is a tick unless it is `00` (R93). -/
theorem tickKindOf_isSome (t e : Bool) : (tickKindOf t e).isSome = (t || e) := by
  cases t <;> cases e <;> rfl

/-- A tick of either kind is the tick of the build's profile (R141). -/
theorem exec_tick_some {t e : Bool} {k : TickKind} {s : State} (hk : tickKindOf t e = some k) :
    exec (.tick t e) s = .next (tickStep s.build.profile k s) := by
  simp only [exec, execTick, hk]

/-- The pair `00` is no event (R182). -/
theorem exec_tick_none {t e : Bool} {s : State} (hk : tickKindOf t e = none) : exec (.tick t e) s = .next s := by
  simp only [exec, execTick, hk]

/-- Counting down by one, where there is something to count (R146, R158). -/
theorem predLatch_eq_sub {c : Fin 901} (hc : c ≠ 0) : predLatch c = c - 1 := by
  have h1 : 1 ≤ c := Fin.one_le_of_ne_zero hc
  rw [Fin.ext_iff, Fin.sub_val_of_le h1]
  rfl

/-- Settles O15: the last tick of the latch interval, or one before it. -/
theorem latchTickCountsDownToDone : Obligations.LatchTickCountsDownToDone := by
  intro s t e k hk hm hc
  rw [exec_tick_some hk, tickStep_latch hm]
  obtain h0 | h1 | hmore := latchCnt_cases s.blk.latchCnt
  · exact absurd (Fin.ext h0) hc
  · rw [latchStep_last h1, if_pos (Fin.ext h1)]
  · rw [latchStep_more hmore, predLatch_eq_sub hc, if_neg (fun h => by simp [h] at hmore)]

/-- Where a pull in FETCH leads (R143). -/
def modeOfAnswer : Answer → Mode
  | .some _ => .shift
  | .none => .latch
  | .notReady => .fetch

theorem fetch_mode {s : State} (hm : s.blk.mode = .fetch) :
    (fetch s).blk.mode = modeOfAnswer (pixNext s.env.source).1 := by
  obtain ⟨p, ha, h⟩ | ⟨ha, h⟩ | ⟨ha, h⟩ := fetch_cases s <;> rw [h, ha]
  · rfl
  · rfl
  · exact hm

/-- The end of a bit stays in SHIFT but for the last bit of a pixel, which pulls (R131, R144). -/
theorem bitDone_mode {s : State} (hm : s.blk.mode = .shift) :
    (bitDone s).blk.mode =
      if s.blk.bitIdx = 7 ∧ s.blk.chan = 2 then modeOfAnswer (pixNext s.env.source).1 else .shift := by
  obtain hb | hb := bitIdx_cases s.blk.bitIdx
  · rw [bitDone_inside hb, if_neg (fun h => by simp [h.1] at hb)]
    exact hm
  · obtain hc | hc := chan_cases s.blk.chan
    · rw [bitDone_nextByte hb hc, if_neg (fun h => by simp [h.2] at hc)]
      exact hm
    · rw [bitDone_last hb, byteDone_last (by exact hc), fetch_mode rfl, if_pos ⟨hb, hc⟩]

/-- A tick in SHIFT leads out of it only at the end of a pixel (R148). -/
theorem bitStep_mode {p : Profile} {k : TickKind} {s : State} (hm : s.blk.mode = .shift) :
    (bitStep p k s).blk.mode =
      if s.blk.phase = 2 ∧ s.blk.bitIdx = 7 ∧ s.blk.chan = 2 then modeOfAnswer (pixNext s.env.source).1
      else .shift := by
  obtain hp | hp | hp := phase_cases s.blk.phase
  · simp [bitStep_phase0 hp, hp, hm]
  · simp [bitStep_phase1 hp, hp, hm]
  · rw [bitStep_phase2 hp, bitDone_mode (by simpa using hm)]
    simp [hp]

/-- A tick in LATCH leads out of it only at the end of the latch interval (R146). -/
theorem latchStep_mode {k : TickKind} {s : State} (hm : s.blk.mode = .latch) :
    (latchStep k s).blk.mode = if s.blk.latchCnt = 1 then .idle else .latch := by
  obtain hc | hc | hc := latchCnt_cases s.blk.latchCnt
  · rw [latchStep_zero hc, if_neg (fun h => by simp [h] at hc), hm]
  · rw [latchStep_last hc, if_pos (Fin.ext hc)]
  · rw [latchStep_more hc, if_neg (fun h => by simp [h] at hc)]
    exact hm

/-- Settles O17: no tick for the pair `00`, and one tick, mode by mode, for every other. -/
theorem tickMakesOnlyTheListedModeTransitions : Obligations.TickMakesOnlyTheListedModeTransitions := by
  intro s t a b _ h
  have hab := tickKindOf_isSome a b
  cases hk : tickKindOf a b with
  | none =>
    have hab : (a || b) = false := by rw [← hab, hk]; rfl
    obtain rfl : s = t := by simpa [exec_tick_none hk] using h
    cases hm : s.blk.mode with
    | idle => rfl
    | fetch => rfl
    | shift => simp [hab]
    | latch => simp [hab]
  | some k =>
    have hab : (a || b) = true := by rw [← hab, hk]; rfl
    obtain rfl : tickStep s.build.profile k s = t := by simpa [exec_tick_some hk] using h
    cases hm : s.blk.mode with
    | idle => exact tickStep_idle hm
    | fetch => exact tickStep_fetch hm
    | shift =>
      simp only [hab, and_true, tickStep_shift hm, bitStep_mode hm]
      split <;> rfl
    | latch =>
      simp only [hab, and_true, tickStep_latch hm, latchStep_mode hm]
      split <;> rfl

/-! ### Pixels and the latch as composed operations -/

/-- The pixel that is ready runs its 72 ticks (R145). -/
theorem exec_pixel_ready {r g b : Byte} {s : State} (h : pixelReady r g b s = true) :
    exec (.pixel r g b) s = .next (runTicks s.build.profile 72 s) :=
  congrArg _ (if_pos h)

/-- The latch interval that is ready runs its 900 ticks (R146). -/
theorem exec_latch_ready {s : State} (h : latchReady s = true) :
    exec .latch s = .next (runTicks s.build.profile 900 s) :=
  congrArg _ (if_pos h)

/-- Settles O25: the pixel is ready, and its ticks send the captured channels in wire order. -/
theorem pixelSendsGreenRedBlue : Obligations.PixelSendsGreenRedBlue := by
  intro s r g b hm hp hb hc hr hg hbl hsh hw
  have hready : pixelReady r g b s = true :=
    pixelReady_iff.mpr ⟨byteReady_iff.mpr ⟨hm, hp, hb, hsh⟩, hc, hr, hg, hbl⟩
  have hbits : pixelBits ⟨r, g, b⟩ = byteBits g ++ byteBits r ++ byteBits b := by simp [pixelBits, pixelBytes]
  rw [exec_pixel_ready hready, runTicks_pixel hm hp hb hc (hsh.trans hg.symm) hw, hr, hg, hbl, hbits, ← hb, ← hc]

/-- Settles O26: the latch interval is ready, with its whole count to come. -/
theorem latchWaitsNineHundredTicks : Obligations.LatchWaitsNineHundredTicks := by
  intro s hm hc hw
  rw [exec_latch_ready (latchReady_iff.mpr ⟨hm, hc⟩), runTicks_latch 899 s hm (by rw [hc]; rfl) hw]

/-! ### The closed form of a log -/

/-- Two transitions per symbol (R117). -/
theorem bitsLog_length (p : Profile) (t : Nat) (bits : List Bool) : (bitsLog p t bits).length = 2 * bits.length := by
  induction bits generalizing t with
  | nil => rfl
  | cons v bits ih =>
    rw [bitsLog_cons, List.length_append, ih, List.length_cons, Nat.mul_succ, Nat.add_comm]
    rfl

/-- One rise per symbol (R117). -/
theorem countP_high_bitsLog (p : Profile) (t : Nat) (bits : List Bool) :
    (bitsLog p t bits).countP (fun e => e.1 = .high) = bits.length := by
  induction bits generalizing t with
  | nil => rfl
  | cons v bits ih =>
    rw [bitsLog_cons, List.countP_append, ih, List.length_cons, Nat.add_comm]
    rfl

/-- Every symbol leaves the line low, as it found it (R118). -/
theorem alternates_bitsLog (p : Profile) (t : Nat) (bits : List Bool) :
    alternates .low (bitsLog p t bits) .low = true := by
  induction bits generalizing t with
  | nil => rfl
  | cons v bits ih =>
    rw [bitsLog_cons]
    exact ih (t + 3)

/-- Symbol `j` rises three slots after the one before it (R81). -/
theorem bitsLog_getElem?_rise (p : Profile) (t : Nat) {bits : List Bool} {j : Nat} (hj : j < bits.length) :
    (bitsLog p t bits)[2 * j]? = some (.high, t + 3 * j) := by
  induction bits generalizing t j with
  | nil => exact absurd hj (Nat.not_lt_zero j)
  | cons v bits ih =>
    rw [bitsLog_cons]
    cases j with
    | zero => rfl
    | succ j =>
      have hrest : (symbolLog p v t ++ bitsLog p (t + 3) bits)[2 * (j + 1)]? = (bitsLog p (t + 3) bits)[2 * j]? := rfl
      rw [hrest, ih (t + 3) (Nat.lt_of_succ_lt_succ hj), Nat.mul_succ, Nat.add_assoc, Nat.add_comm 3]

/-- Settles O53: a frame is a run of `24N` symbols from slot 0. -/
theorem frameLogAlternatesAndCounts : Obligations.FrameLogAlternatesAndCounts := by
  intro p ps
  have hlen := frameBits_length ps
  refine ⟨?_, ?_, alternates_bitsLog p 0 _, fun j hj => ?_⟩
  · rw [frameLog, bitsLog_length, hlen, ← Nat.mul_assoc]
  · rw [frameLog, countP_high_bitsLog, hlen]
  · rw [frameLog, bitsLog_getElem?_rise p 0 (hlen ▸ hj), Nat.zero_add]

/-! ### A frame of composed operations -/

/-- A pull that takes a pixel, and the operation that sends it: the next pull (R143, R145). -/
theorem exec_pixel_fetch {s : State} {x : Pixel} {ws : List PxWord} (hs : s.env.source = pxSome x :: ws)
    (hw : 72 ≤ s.env.waits.length) :
    exec (.pixel x.r x.g x.b) (fetch s) = .next (fetch (afterPixel s.build.profile x ws s)) := by
  have hready : pixelReady x.r x.g x.b (fetch s) = true := by
    rw [fetch_some hs (answerOf_pxSome x), pixelReady_iff, byteReady_iff]
    exact ⟨⟨rfl, rfl, rfl, rfl⟩, rfl, rfl, rfl, rfl⟩
  rw [exec_pixel_ready hready, fetch_build, runTicks_fetch_pixel 0 hs hw, runTicks_zero]

/-- A pull that finds the end of the source, and the operation that waits out the latch interval (R143, R146). -/
theorem exec_latch_fetch {s : State} (hs : (pixNext s.env.source).1 = .none) :
    exec .latch (fetch s) = .next (runTicks s.build.profile 900 (fetch s)) := by
  have hready : latchReady (fetch s) = true := by
    rw [fetch_none hs, latchReady_iff]
    exact ⟨rfl, rfl⟩
  rw [exec_latch_ready hready, fetch_build]

/-- From its first pull on, the composed operations of a frame run its `72N + 900` ticks. -/
theorem execAll_frame (ps : List Pixel) {s : State} (hs : s.env.source = ps.map pxSome)
    (hw : 72 * ps.length + 900 ≤ s.env.waits.length) :
    execAll (ps.map (fun p => .pixel p.r p.g p.b) ++ [.latch]) (fetch s) =
      .next (runTicks s.build.profile (72 * ps.length + 900) (fetch s)) := by
  induction ps generalizing s with
  | nil =>
    have hlatch := exec_latch_fetch (s := s) (by rw [hs]; rfl)
    simp only [List.map_nil, List.nil_append, execAll, hlatch]
    rfl
  | cons x xs ih =>
    have hlen : 72 * (x :: xs).length + 900 = 72 + (72 * xs.length + 900) := by simp only [List.length_cons]; omega
    rw [hlen] at hw ⊢
    have hs : s.env.source = pxSome x :: xs.map pxSome := hs
    have hpixel := exec_pixel_fetch hs (by omega)
    simp only [List.map_cons, List.cons_append, execAll, hpixel]
    rw [runTicks_fetch_pixel _ hs (by omega)]
    exact ih rfl (by rw [afterPixel_waits, List.length_drop]; exact Nat.le_sub_of_add_le' hw)

/-- The frame of no pixel from its first pull on: nothing of the line, whatever its level (R152). -/
theorem runTicks_fetch_none {p : Profile} {s : State} (hs : (pixNext s.env.source).1 = .none)
    (hw : 900 ≤ s.env.waits.length) :
    runTicks p 900 (fetch s) =
      { s with
        env := { s.env with source := (pixNext s.env.source).2, waits := s.env.waits.drop 900 }
        blk := { s.blk with mode := .idle, latchCnt := 0, ticks := s.blk.ticks + 900
                            diagErr := countFails (s.env.waits.take 900) s.blk.diagErr }
        obs := { s.obs with outs := s.obs.outs ++ [.done] } } := by
  rw [fetch_none hs, runTicks_latch 899 _ rfl rfl (by exact hw)]

/-- The state with the line low. -/
def lineLow (s : State) : State := { s with blk := { s.blk with dout := .low } }

/-- A pixel leaves the line low, whatever its level before. -/
theorem runTicks_fetch_lineLow {p : Profile} {s : State} {x : Pixel} {ws : List PxWord} (n : Nat)
    (hs : s.env.source = pxSome x :: ws) (hw : 72 ≤ s.env.waits.length) :
    runTicks p (72 + n) (fetch s) = runTicks p (72 + n) (fetch (lineLow s)) := by
  rw [runTicks_fetch_pixel n hs hw, runTicks_fetch_pixel (s := lineLow s) n hs hw]
  rfl

/-- A frame from a prompt source, whatever the level of the line before it: its length and its log (R150, R154). -/
theorem runTicks_frame (p : Profile) (ps : List Pixel) {s : State} (hs : s.env.source = ps.map pxSome)
    (hw : 72 * ps.length + 900 ≤ s.env.waits.length) :
    let t := runTicks p (72 * ps.length + 900) (fetch s)
    t.blk.mode = .idle ∧ t.blk.ticks = s.blk.ticks + (72 * ps.length + 900) ∧
      t.blk.log = s.blk.log ++ bitsLog p s.blk.ticks (frameBits ps) := by
  cases ps with
  | nil =>
    simp only [List.length_nil, Nat.mul_zero, Nat.zero_add] at hw ⊢
    rw [runTicks_fetch_none (by rw [hs]; rfl) hw]
    exact ⟨rfl, rfl, (List.append_nil _).symm⟩
  | cons x xs =>
    have hlen : 72 * (x :: xs).length + 900 = 72 + (72 * xs.length + 900) := by simp only [List.length_cons]; omega
    have hlow : FrameDone p (x :: xs) [] (lineLow s) (runTicks p _ (fetch (lineLow s))) :=
      frameDone_runTicks (last := []) rfl (x :: xs) rfl (by rw [List.append_nil]; exact hs) hw
    have hline := runTicks_fetch_lineLow (p := p) (72 * xs.length + 900) hs (by omega)
    rw [← hlen] at hline
    rw [hline]
    exact ⟨hlow.mode, hlow.ticks, hlow.log⟩

/-- Settles O52: `WRITE` is the first pull of the frame, and the other operations run its ticks. -/
theorem frameIsItsComposedOperations : Obligations.FrameIsItsComposedOperations := by
  intro s ps hm hs hw
  have hwrite := exec_write_idle hm
  obtain ⟨hmode, hticks, hlog⟩ :=
    runTicks_frame s.build.profile ps (s := started s.env.offer s.env.inputs s) hs hw
  refine ⟨_, ?_, hmode, hticks.trans (Nat.zero_add _), hlog, ?_⟩
  · simp only [List.cons_append, execAll, hwrite]
    exact execAll_frame ps (s := started s.env.offer s.env.inputs s) hs hw
  · rw [runTicks_waits, fetch_waits]
    rfl

/-! ### The empty frame -/

/-- Settles O51: the first pull finds the end of the source, and the tick events are the latch interval. -/
theorem emptyFrameIsTheLatchAlone : Obligations.EmptyFrameIsTheLatchAlone := by
  intro s evs hm hi hl ht
  obtain ⟨ks, hks, t, hrun, -, hsame⟩ := run_ticks 900 (fetch_inputs (started [] evs s)) hl ht (SameBut.refl _)
  rw [fetch_setWaits, fetch_build, runTicks_fetch_none rfl hks.ge] at hsame
  obtain ⟨-, hblk, hobs, -⟩ := hsame
  refine ⟨t, (run_succ (step_write hm hi)).trans hrun, ?_⟩
  rw [hblk, hobs]
  exact ⟨rfl, rfl, Nat.zero_add 900, rfl, rfl⟩

/-! ### A frame whose source may be late -/

/-- The pixels that the frame has still to pull, by the answers its source will give. -/
def pixelsToCome (s : State) : List Pixel :=
  match s.blk.mode with
  | .idle => []
  | .fetch => pixelsOf s.env.source
  | .shift => pixelsOf s.env.source
  | .latch => []

/-- The state with a source that gives the pixels still to come promptly, and then `None`. -/
def prompt (s : State) : State := { s with env := { s.env with source := (pixelsToCome s).map pxSome } }

/-- The state in which the block would stand if its source were never late: a pull still to be answered has been. -/
def caughtUp (s : State) : State := if s.blk.mode = .fetch then fetch (prompt s) else prompt s

theorem caughtUp_of_fetch {s : State} (hm : s.blk.mode = .fetch) : caughtUp s = fetch (prompt s) := if_pos hm
theorem caughtUp_of_not_fetch {s : State} (hm : s.blk.mode ≠ .fetch) : caughtUp s = prompt s := if_neg hm

/-- The pixels of a source, by its next answer (R39, R51). -/
theorem pixelsOf_some {src : List PxWord} {p : Pixel} (h : (pixNext src).1 = .some p) :
    pixelsOf src = p :: pixelsOf (pixNext src).2 := by
  cases src with
  | nil => cases h
  | cons w ws =>
    have h : answerOf w = .some p := h
    simp only [pixelsOf, h, pixNext_cons]

theorem pixelsOf_none {src : List PxWord} (h : (pixNext src).1 = .none) : pixelsOf src = [] := by
  cases src with
  | nil => rfl
  | cons w ws =>
    have h : answerOf w = .none := h
    simp only [pixelsOf, h]

theorem pixelsOf_notReady {src : List PxWord} (h : (pixNext src).1 = .notReady) :
    pixelsOf src = pixelsOf (pixNext src).2 := by
  cases src with
  | nil => cases h
  | cons w ws =>
    have h : answerOf w = .notReady := h
    simp only [pixelsOf, h, pixNext_cons]

/-- Catching up makes every pull that is still to be answered, whether it has been made in vain or not (R157). -/
theorem caughtUp_fetch {s : State} (hm : s.blk.mode = .fetch) : caughtUp (fetch s) = caughtUp s := by
  rw [caughtUp_of_fetch hm]
  have hsource : (prompt s).env.source = (pixelsOf s.env.source).map pxSome := by simp [prompt, pixelsToCome, hm]
  obtain ⟨x, ha, h⟩ | ⟨ha, h⟩ | ⟨ha, h⟩ := fetch_cases s
  · rw [pixelsOf_some ha] at hsource
    rw [h, caughtUp_of_not_fetch (by simp), fetch_some hsource (answerOf_pxSome x)]
    rfl
  · rw [pixelsOf_none ha] at hsource
    rw [h, caughtUp_of_not_fetch (by simp), fetch_none (by rw [hsource]; rfl), hsource]
    rfl
  · rw [h, caughtUp_of_fetch (by exact hm)]
    simp [prompt, pixelsToCome, hm, pixelsOf_notReady ha]

/-- `ByteDone` after the third byte pulls, and the catching up answers that pull (R144). -/
theorem caughtUp_byteDone {s : State} (hm : s.blk.mode = .shift) : caughtUp (byteDone s) = byteDone (prompt s) := by
  obtain hc | hc := chan_cases s.blk.chan
  · rw [byteDone_next hc, byteDone_next (by exact hc), caughtUp_of_not_fetch (by simp [hm])]
    rfl
  · rw [byteDone_last hc, byteDone_last (by exact hc), caughtUp_fetch rfl, caughtUp_of_fetch rfl]
    simp [prompt, pixelsToCome, hm]

theorem caughtUp_bitDone {s : State} (hm : s.blk.mode = .shift) : caughtUp (bitDone s) = bitDone (prompt s) := by
  obtain hb | hb := bitIdx_cases s.blk.bitIdx
  · rw [bitDone_inside hb, bitDone_inside (by exact hb), caughtUp_of_not_fetch (by simp [hm])]
    rfl
  · rw [bitDone_last hb, bitDone_last (by exact hb), caughtUp_byteDone (by exact hm)]
    rfl

theorem prompt_pinLowIf (c : Bool) (s : State) : prompt (pinLowIf c s) = pinLowIf c (prompt s) := by
  cases c <;> rfl

theorem caughtUp_bitStep (p : Profile) (k : TickKind) {s : State} (hm : s.blk.mode = .shift) :
    caughtUp (bitStep p k s) = bitStep p k (prompt s) := by
  obtain hp | hp | hp := phase_cases s.blk.phase
  · have hpin : prompt (pin .high (consumeTick k s)) = pin .high (consumeTick k (prompt s)) := rfl
    rw [bitStep_phase0 hp, bitStep_phase0 (by exact hp), caughtUp_of_not_fetch (by simp [hm]), ← hpin,
      ← prompt_pinLowIf]
    rfl
  · have htick : prompt (consumeTick k s) = consumeTick k (prompt s) := rfl
    rw [bitStep_phase1 hp, bitStep_phase1 (by exact hp), caughtUp_of_not_fetch (by simp [hm]), ← htick,
      ← prompt_pinLowIf]
    rfl
  · have htick : prompt (consumeTick k s) = consumeTick k (prompt s) := rfl
    rw [bitStep_phase2 hp, bitStep_phase2 (by exact hp), caughtUp_bitDone (by simp [hm]), ← htick,
      ← prompt_pinLowIf]
    rfl

theorem caughtUp_latchStep (k : TickKind) {s : State} (hm : s.blk.mode = .latch) :
    caughtUp (latchStep k s) = latchStep k (prompt s) := by
  obtain hc | hc | hc := latchCnt_cases s.blk.latchCnt
  · rw [latchStep_zero hc, latchStep_zero (by exact hc), caughtUp_of_not_fetch (by simp [hm])]
  · rw [latchStep_last hc, latchStep_last (by exact hc), caughtUp_of_not_fetch (by simp)]
    simp [prompt, pixelsToCome, hm]
  · rw [latchStep_more hc, latchStep_more (by exact hc), caughtUp_of_not_fetch (by simp [hm])]
    rfl

/-- Outside FETCH, a tick is one of the block that has caught up as well; in FETCH it is lost (R141). -/
theorem caughtUp_tickStep (p : Profile) (k : TickKind) {s : State} (hm : s.blk.mode ≠ .fetch) :
    caughtUp (tickStep p k s) = tickStep p k (caughtUp s) := by
  rw [caughtUp_of_not_fetch hm]
  cases hmode : s.blk.mode with
  | idle => rw [tickStep_idle hmode, tickStep_idle (by exact hmode), caughtUp_of_not_fetch hm]
  | fetch => exact absurd hmode hm
  | shift => rw [tickStep_shift hmode, tickStep_shift (by exact hmode), caughtUp_bitStep p k hmode]
  | latch => rw [tickStep_latch hmode, tickStep_latch (by exact hmode), caughtUp_latchStep k hmode]

/-- What one tick after the other does. -/
def tickAll (p : Profile) (ks : List TickKind) (s : State) : State := ks.foldl (fun u k => tickStep p k u) s

/-- Ticks in IDLE are lost (R173). -/
theorem tickAll_idle {p : Profile} {s : State} (hm : s.blk.mode = .idle) (ks : List TickKind) : tickAll p ks s = s := by
  induction ks with
  | nil => rfl
  | cons k ks ih =>
    have hcons : tickAll p (k :: ks) s = tickAll p ks (tickStep p k s) := rfl
    rw [hcons, tickStep_idle hm, ih]

theorem SameBut.build {s t : State} (h : SameBut s t) : s.build = t.build := h.1
theorem SameBut.blk {s t : State} (h : SameBut s t) : s.blk = t.blk := h.2.1

theorem SameBut.tickAll {p : Profile} {s t : State} (h : SameBut s t) (ks : List TickKind) :
    SameBut (tickAll p ks s) (tickAll p ks t) := by
  induction ks generalizing s t with
  | nil => exact h
  | cons k ks ih => exact ih h.tick

/-- The ticks are those of a run of as many answered tick-waits. -/
theorem tickAll_sameBut_runTicks {p : Profile} {ks : List TickKind} {s t : State} (h : SameBut s t)
    (hw : t.env.waits = ks) : SameBut (Machine.tickAll p ks s) (runTicks p ks.length t) := by
  induction ks generalizing s t with
  | nil => exact h
  | cons k ks ih =>
    rw [List.length_cons, runTicks_cons hw]
    exact ih (SameBut.tick h) (tickStep_waits _ _ _)

theorem SameBut.caughtUp {s t : State} (h : SameBut s t) : SameBut (caughtUp s) (caughtUp t) := by
  obtain ⟨hbuild, hblk, hobs, hsource⟩ := h
  have hprompt : SameBut (prompt s) (prompt t) :=
    ⟨hbuild, hblk, hobs, by simp only [prompt, pixelsToCome, hblk, hsource]⟩
  by_cases hm : s.blk.mode = .fetch
  · rw [caughtUp_of_fetch hm, caughtUp_of_fetch (hblk ▸ hm)]
    exact hprompt.fetch
  · rw [caughtUp_of_not_fetch hm, caughtUp_of_not_fetch (hblk ▸ hm)]
    exact hprompt

/-- The end of a frame of the pixels `ps`, with its closed form and its tick count (R153, R154). -/
structure FrameEnded (p : Profile) (ps : List Pixel) (b : Block) : Prop where
  mode : b.mode = .idle
  log : b.log = frameLog p ps
  ticks : b.ticks = 72 * ps.length + 900
  dout : b.dout = .low

/-- The block is in a frame of the pixels `ps`, at most `n` events after its `Start`: once it has caught up, the ticks
of a whole frame are enough to end it as they would from a source that is never late. -/
structure OnTheWay (p : Profile) (ps : List Pixel) (n : Nat) (s : State) : Prop where
  profile : s.build.profile = p
  ticks : s.blk.ticks ≤ n
  ends : ∀ ks : List TickKind, 72 * ps.length + 900 ≤ ks.length → FrameEnded p ps (tickAll p ks (caughtUp s)).blk

/-- A tick is counted once or not at all (R33). -/
theorem tickStep_ticks_le (p : Profile) (k : TickKind) (s : State) :
    (tickStep p k s).blk.ticks ≤ s.blk.ticks + 1 := by
  cases hm : s.blk.mode with
  | idle => rw [tickStep_idle hm]; exact Nat.le_succ _
  | fetch => rw [tickStep_fetch hm]; exact Nat.le_succ _
  | shift => rw [tickStep_shift hm, bitStep_ticks]
  | latch =>
    rw [tickStep_latch hm]
    obtain hc | hc := eq_or_ne s.blk.latchCnt.val 0
    · rw [latchStep_zero hc]; exact Nat.le_succ _
    · rw [latchStep_ticks k hc]

section
variable {p : Profile} {ps : List Pixel} {n : Nat} {s : State} (h : OnTheWay p ps n s)
include h

theorem OnTheWay.succ : OnTheWay p ps (n + 1) s := { h with ticks := Nat.le_succ_of_le h.ticks }

/-- The events still to come do not matter. -/
theorem OnTheWay.of_sameBut {t : State} (hst : SameBut s t) : OnTheWay p ps n t where
  profile := hst.build ▸ h.profile
  ticks := hst.blk ▸ h.ticks
  ends ks hks := (hst.caughtUp.tickAll ks).blk ▸ h.ends ks hks

theorem OnTheWay.fetch (hm : s.blk.mode = .fetch) : OnTheWay p ps n (fetch s) where
  profile := by rw [fetch_build, h.profile]
  ticks := by rw [fetch_ticks]; exact h.ticks
  ends := by rw [caughtUp_fetch hm]; exact h.ends

/-- A tick brings the end nearer, or is lost in FETCH, where the frame has to wait (R58, R141). -/
theorem OnTheWay.tickStep (k : TickKind) : OnTheWay p ps (n + 1) (tickStep p k s) := by
  by_cases hm : s.blk.mode = .fetch
  · rw [tickStep_fetch hm]
    exact h.succ
  · refine ⟨by rw [tickStep_build, h.profile], (tickStep_ticks_le p k s).trans (Nat.succ_le_succ h.ticks),
      fun ks hks => ?_⟩
    rw [caughtUp_tickStep p k hm]
    exact h.ends (k :: ks) (Nat.le_succ_of_le hks)

/-- Each event with which a frame goes on keeps it on its way. -/
theorem OnTheWay.step (hf : ∀ i ∈ s.env.inputs, framesOn i = true) :
    ∃ t, step s = .next t ∧ OnTheWay p ps (n + 1) t ∧ ∀ i ∈ t.env.inputs, framesOn i = true := by
  cases hi : s.env.inputs with
  | nil => exact ⟨s, step_nil hi, h.succ, hf⟩
  | cons ev rest =>
    rw [hi] at hf
    have hrest : ∀ i ∈ rest, framesOn i = true := fun i hi => hf i (List.mem_cons_of_mem _ hi)
    obtain ⟨off, hs⟩ := step_framesOn hi (hf ev List.mem_cons_self)
    have hgone : OnTheWay p ps n { s with env := { s.env with inputs := rest, offer := off } } :=
      h.of_sameBut ⟨rfl, rfl, rfl, rfl⟩
    obtain hs | ⟨k, hs⟩ | ⟨hm, hs⟩ := hs
    · exact ⟨_, hs, hgone.succ, hrest⟩
    · rw [h.profile] at hs
      exact ⟨_, hs, hgone.tickStep k, by rw [tickStep_inputs]; exact hrest⟩
    · exact ⟨_, hs, (hgone.fetch hm).succ, by rw [fetch_inputs]; exact hrest⟩

/-- A frame that is on its way and in IDLE has ended: further ticks change nothing. -/
theorem OnTheWay.ended (hm : s.blk.mode = .idle) : FrameEnded p ps s.blk := by
  have hend := h.ends (List.replicate (72 * ps.length + 900) .fired) (by rw [List.length_replicate])
  rwa [caughtUp_of_not_fetch (by simp [hm]), tickAll_idle (by exact hm)] at hend

end

/-- Any number of events of a frame keep it on its way. -/
theorem OnTheWay.run {p : Profile} {ps : List Pixel} {m : Nat} {s : State} (h : OnTheWay p ps m s)
    (hf : ∀ i ∈ s.env.inputs, framesOn i = true) (n : Nat) :
    ∃ t, core.run n s = .next t ∧ OnTheWay p ps (m + n) t := by
  induction n generalizing m s with
  | zero => exact ⟨s, rfl, h⟩
  | succ n ih =>
    obtain ⟨u, hs, hu, hfu⟩ := h.step hf
    obtain ⟨t, hrun, ht⟩ := ih hu hfu
    exact ⟨t, (run_succ hs).trans hrun, Nat.succ_add_eq_add_succ m n ▸ ht⟩

/-- Answered tick-waits in IDLE leave the block as it is. -/
theorem runTicks_idle {p : Profile} {s : State} (hm : s.blk.mode = .idle) (n : Nat) : (runTicks p n s).blk = s.blk :=
  runTicks_induction (P := fun u => u.blk = s.blk) (fun _ _ h => h)
    (fun k u h => by rw [tickStep_idle (h ▸ hm), h]) n s rfl

/-- The state with other tick-waits to be answered. -/
def withWaits (ks : List TickKind) (s : State) : State := { s with env := { s.env with waits := ks } }

theorem SameBut.withWaits (ks : List TickKind) (s : State) : SameBut s (withWaits ks s) := SameBut.refl s

/-- An accepted `Start` sets the frame of its source's pixels on its way. -/
theorem onTheWay_started {s : State} (src : List PxWord) (evs : List Input) (hd : s.blk.dout = .low) :
    OnTheWay s.build.profile (pixelsOf src) 0 (started src evs s) where
  profile := rfl
  ticks := le_rfl
  ends ks hks := by
    obtain ⟨d, hlen⟩ := Nat.exists_eq_add_of_le hks
    have hdone := frameDone_runTicks (p := s.build.profile) (s := withWaits ks (prompt (started src evs s)))
      (last := []) rfl (pixelsOf src) hd (List.append_nil _).symm hks
    have hblk := (tickAll_sameBut_runTicks (p := s.build.profile) (ks := ks)
      (SameBut.withWaits ks (prompt (started src evs s))).fetch (fetch_waits _)).blk
    rw [caughtUp_of_fetch rfl, hblk, hlen, runTicks_add, runTicks_idle hdone.mode]
    exact ⟨hdone.mode, hdone.log, hdone.ticks.trans (Nat.zero_add _), hdone.dout⟩

/-- A `WRITE` in IDLE, and any number of the events with which its frame goes on (R153). -/
theorem run_write_framesOn {s : State} {src : List PxWord} {evs : List Input} (hm : s.blk.mode = .idle)
    (hd : s.blk.dout = .low) (hi : s.env.inputs = .word ⟨.cmd, 1⟩ src :: evs) (hf : ∀ i ∈ evs, framesOn i = true)
    (n : Nat) : ∃ t, core.run (1 + n) s = .next t ∧ OnTheWay s.build.profile (pixelsOf src) n t := by
  obtain ⟨t, hrun, ht⟩ := ((onTheWay_started src evs hd).fetch rfl).run (by rw [fetch_inputs]; exact hf) n
  exact ⟨t, by rw [Nat.add_comm, run_succ (step_write hm hi), hrun], Nat.zero_add n ▸ ht⟩

/-- Settles O50: the frame is on its way from its `Start`, and in IDLE it has ended. -/
theorem frameLogDependsOnlyOnPixelsAndProfile : Obligations.FrameLogDependsOnlyOnPixelsAndProfile := by
  intro s t src evs n hm hd hi hf hrun hidle
  obtain ⟨u, hu, hway⟩ := run_write_framesOn hm hd hi hf n
  obtain rfl : u = t := Host.Outcome.next.inj (hu.symm.trans hrun)
  have hend := hway.ended hidle
  exact ⟨hend.log, hend.ticks, hend.dout⟩

/-! ### A frame from a prompt source -/

/-- The pixels of a source that gives them at once, up to its `None`. -/
theorem pixelsOf_map_pxSome_append (ps : List Pixel) (rest : List PxWord) :
    pixelsOf (ps.map pxSome ++ pxNone :: rest) = ps := by
  induction ps with
  | nil => rfl
  | cons x xs ih => simp only [List.map_cons, List.cons_append, pixelsOf, answerOf_pxSome, ih]

/-- A tick event is one with which a frame goes on. -/
theorem framesOn_of_isTick {i : Input} (h : isTick i = true) : framesOn i = true := by
  cases i with
  | word w src =>
    simp only [isTick, framesOn, Bool.and_eq_true] at h ⊢
    obtain ⟨⟨hfmt, -⟩, hbits⟩ := h
    exact ⟨hfmt, hbits⟩
  | poll => rfl
  | cycle c => exact h

/-- The outputs of a frame beside its `Take`s and its `Done` are the pins of its log (R147). -/
theorem filter_frameOuts (p : Profile) (t : Nat) (ps : List Pixel) :
    (frameOuts p t ps).filter (fun o => o ≠ .take ∧ o ≠ .done) = pinsOf (bitsLog p t (frameBits ps)) := by
  have hpins : ∀ log, (pinsOf log).filter (fun o => o ≠ .take ∧ o ≠ .done) = pinsOf log := fun log =>
    List.filter_eq_self.mpr fun o ho => by obtain ⟨e, -, rfl⟩ := List.mem_map.mp ho; simp
  induction ps generalizing t with
  | nil => rfl
  | cons x xs ih =>
    rw [bitsLog_frameBits_cons, pinsOf_append, ← hpins (bitsLog p t (pixelBits x)), ← ih (t + 72),
      ← List.filter_append]
    rfl

/-- Settles O49: the whole run is the run of the frame's ticks; a shorter one is on its way, and has not counted the
ticks with which the frame ends. -/
theorem frameHasItsClosedForm : Obligations.FrameHasItsClosedForm := by
  intro s ps rest evs hm hd hi hl ht
  refine ⟨?_, fun n hn => ?_⟩
  · obtain ⟨t, hrun, -, hmode, hdout, hticks, hlog, hsource, houts⟩ :=
      run_frame (last := pxNone :: rest) hm hd rfl hi hl ht
    exact ⟨t, hrun, hmode, hdout, hticks.trans (Nat.zero_add _), hlog, hsource, _, houts,
      countOut_take_frameOuts _ _ ps, countOut_done_frameOuts _ _ ps, filter_frameOuts _ _ ps⟩
  · obtain ⟨t, hrun, hway⟩ := run_write_framesOn hm hd hi (fun i h => framesOn_of_isTick (ht i h)) n
    rw [pixelsOf_map_pxSome_append] at hway
    refine ⟨t, hrun, decide_eq_true fun hidle => ?_⟩
    have hend := (hway.ended hidle).ticks
    have hle := hway.ticks
    omega

end Machine
end Sys2Proof
end

section
/-! Proofs of the host operations family: construction from any state, the inputs that do nothing, and a reset in the
middle of a frame. -/

namespace Sys2Proof
namespace Machine

/-! ### Construction -/

/-- `CONSTRUCT` is the `Reset` step, whatever its `start` bit (R91, R170). -/
theorem exec_construct (b : Bool) (s : State) : exec (.construct b) s = .next (resetStep s) := rfl

/-- Settles O2: each field is the one that `Reset` gives it. -/
theorem constructForcesIdleAndLow : Obligations.ConstructForcesIdleAndLow := fun b s =>
  ⟨resetStep s, exec_construct b s, resetStep_build s, resetStep_env s, resetStep_outs s, resetStep_dout s,
    resetStep_mode s, rfl, resetStep_ticks s, resetStep_log s, resetStep_diagErr s⟩

/-! ### The inputs that do nothing -/

/-- A tick in IDLE or FETCH is lost (R141, R173). -/
theorem tickStep_lost {p : Profile} {k : TickKind} {s : State} (hm : s.blk.mode = .idle ∨ s.blk.mode = .fetch) :
    tickStep p k s = s :=
  hm.elim tickStep_idle tickStep_fetch

/-- Every pair on the tick port is lost in IDLE and FETCH: a tick of either kind, and `00`, which is no event (R93). -/
theorem exec_tick_lost {t e : Bool} {s : State} (hm : s.blk.mode = .idle ∨ s.blk.mode = .fetch) :
    exec (.tick t e) s = .next s := by
  cases hk : tickKindOf t e with
  | none => exact exec_tick_none hk
  | some k => rw [exec_tick_some hk, tickStep_lost hm]

/-- Settles O3: outside its modes, each input's operation is the identity. -/
theorem droppedInputsChangeNothing : Obligations.DroppedInputsChangeNothing :=
  ⟨fun _ => rfl,
    fun _ _ _ => exec_tick_lost,
    fun _ hm => congrArg _ (startStep_busy hm),
    fun _ _ _ hm => ⟨congrArg _ (answerStep_other hm), congrArg _ (answerStep_other hm), congrArg _ (answerStep_other hm)⟩,
    fun _ _ hm hi => step_poll_other hi hm⟩

/-! ### A reset in the middle of a frame -/

/-- No answer ends the frame (R143). -/
theorem modeOfAnswer_ne_idle (a : Answer) : modeOfAnswer a ≠ .idle := by
  cases a <;> simp [modeOfAnswer]

/-- A pull never leaves the block idle (R35, R143). -/
theorem busy_fetch {s : State} (hm : s.blk.mode = .fetch) : busy (fetch s) = true :=
  decide_eq_true (fetch_mode hm ▸ modeOfAnswer_ne_idle _)

/-- The one output a pull can have is the `Take` of its pixel (R143). -/
theorem fetch_outs (s : State) : ∃ os, (fetch s).obs.outs = s.obs.outs ++ os ∧ ∀ o ∈ os, o = .take := by
  obtain ⟨p, -, h⟩ | ⟨-, h⟩ | ⟨-, h⟩ := fetch_cases s <;> rw [h]
  · exact ⟨[.take], rfl, fun _ => List.mem_singleton.mp⟩
  · exact ⟨[], (List.append_nil _).symm, nofun⟩
  · exact ⟨[], (List.append_nil _).symm, nofun⟩

/-- `WRITE` after `CONSTRUCT` is the first pull of a new frame, from the source on offer (R142, R171). -/
theorem exec_write_resetStep (src : List PxWord) (s : State) :
    exec .write { resetStep s with env := { (resetStep s).env with offer := src } } =
      .next (fetch (started src s.env.inputs (resetStep s))) :=
  exec_write_idle rfl

/-- Settles O54: the outputs of the two are the `Pin(0)` of the reset and at most the `Take` of the first pull. -/
theorem resetAbandonsTheFrame : Obligations.ResetAbandonsTheFrame := by
  intro s b src
  obtain ⟨os, houts, htake⟩ := fetch_outs (started src s.env.inputs (resetStep s))
  have hnew : (fetch (started src s.env.inputs (resetStep s))).obs.outs = s.obs.outs ++ (.pin .low :: os) :=
    houts.trans (List.append_assoc _ _ _)
  refine ⟨_, _, exec_construct b s, rfl, resetStep_dout s, exec_write_resetStep src s,
    fetch_ticks _, fetch_log _, fetch_dout _, busy_fetch rfl, ?_⟩
  rw [hnew, List.drop_left]
  intro hdone
  obtain hpin | hos := List.mem_cons.mp hdone
  · cases hpin
  · cases htake _ hos

end Machine
end Sys2Proof
end

section
/-! Proofs of the exceptions family: no operation and no step traps, the kind of a tick, the block that waits where
ticks or events stop, and the order of the inputs in one clock cycle. -/

namespace Sys2Proof
namespace Machine

/-! ### Nothing traps -/

/-- Settles O44: a step goes on with each kind of event but a word that does not decode. -/
theorem nothingEverTraps : Obligations.NothingEverTraps := by
  refine ⟨fun i s => ⟨effect i s, exec_eq_effect i s⟩, fun s => ?_⟩
  cases hi : s.env.inputs with
  | nil => exact .inl ⟨_, step_nil hi⟩
  | cons ev rest =>
    cases ev with
    | word w src =>
      cases hd : decode w with
      | ok i => exact .inl ⟨_, step_word hi hd⟩
      | error e => exact .inr ⟨w, src, rest, e, rfl, hd, step_badWord hi hd⟩
    | poll =>
      by_cases hm : s.blk.mode = .fetch
      · exact .inl ⟨_, step_poll_fetch hi hm⟩
      · exact .inl ⟨_, step_poll_other hi hm⟩
    | cycle c => exact .inl ⟨_, step_cycle hi⟩

/-! ### The kind of a tick -/

/-- A tick's kind is looked at only where the tick is consumed (R141, R186). -/
theorem tickStep_eq_of_consumeTick_eq {k k' : TickKind} {s : State} (p : Profile)
    (h : consumeTick k s = consumeTick k' s) : tickStep p k s = tickStep p k' s := by
  simp only [tickStep, bitStep, latchStep, h]

/-- Ticks of either kind lead to states that are equal but for the counter (R186). -/
theorem tickStep_eqButDiag (p : Profile) (k k' : TickKind) (s : State) :
    EqButDiag (tickStep p k s) (tickStep p k' s) := by
  have hconsume : consumeTick k (withDiag none s) = consumeTick k' (withDiag none s) := by
    rw [withDiag_consumeTick, withDiag_consumeTick]
    rfl
  rw [EqButDiag, ← withDiag_tickStep, ← withDiag_tickStep, tickStep_eq_of_consumeTick_eq p hconsume]

@[simp] theorem bitStep_diagErr (p : Profile) (k : TickKind) (s : State) :
    (bitStep p k s).blk.diagErr = countFailed k s.blk.diagErr := by
  obtain h | h | h := phase_cases s.blk.phase
  · simp [bitStep_phase0 h]
  · simp [bitStep_phase1 h]
  · simp [bitStep_phase2 h]

theorem latchStep_diagErr {s : State} (k : TickKind) (h : s.blk.latchCnt.val ≠ 0) :
    (latchStep k s).blk.diagErr = countFailed k s.blk.diagErr := by
  obtain hc | hc | hc := latchCnt_cases s.blk.latchCnt
  · exact absurd hc h
  · rw [latchStep_last hc]
  · rw [latchStep_more hc]

/-- A tick is counted by its kind exactly where it is consumed (R37, R141). -/
theorem Inv.tickStep_diagErr {s : State} (h : Inv s) (p : Profile) (k : TickKind) :
    (Machine.tickStep p k s).blk.diagErr =
      if s.blk.mode = .shift ∨ s.blk.mode = .latch then countFailed k s.blk.diagErr else s.blk.diagErr := by
  cases hm : s.blk.mode with
  | idle => simp [tickStep_idle hm]
  | fetch => simp [tickStep_fetch hm]
  | shift => simp [tickStep_shift hm]
  | latch => simp [tickStep_latch hm, latchStep_diagErr k (h.latchPositive hm)]

/-- Settles O16: the pairs `01` and `11` are both the failed tick, and a fired one counts nothing. -/
theorem tickKindChangesOnlyTheDiagnosticCounter : Obligations.TickKindChangesOnlyTheDiagnosticCounter := by
  intro s e h
  exact ⟨_, _, exec_tick_some (k := .fired) rfl, exec_tick_some (k := .failed) rfl,
    tickStep_eqButDiag _ .fired .failed s, (h.tickStep_diagErr _ .fired).trans (ite_self _),
    h.tickStep_diagErr _ .failed⟩

/-! ### Waiting -/

/-- The symbol that is ready runs its three ticks, in the profile of the build (R101, R110). -/
theorem exec_selectedSymbol_of_symbolReady {p : Profile} {v : Bool} {s : State} (h : symbolReady p v s = true) :
    exec (selectedSymbol p v) s = .next (runTicks s.build.profile 3 s) := by
  rw [exec_selectedSymbol, symbol_ready h, symbolReady_profile h]

/-- Settles O27: the operation that is ready runs all its ticks, and those after the last that comes add nothing. -/
theorem operationsWaitWhereTheTicksStop : Obligations.OperationsWaitWhereTheTicksStop := by
  intro s n hn
  have hshort : ∀ {m}, n ≤ m → runTicks s.build.profile m s = runTicks s.build.profile n s :=
    runTicks_short n _ s hn.symm
  have hsym : ∀ p v, symbolReady p v s = true → n ≤ 3 →
      exec (selectedSymbol p v) s = .next (runTicks s.build.profile n s) := fun p v h hle => by
    rw [exec_selectedSymbol_of_symbolReady h, hshort hle]
  refine ⟨hsym .std true, hsym .std false, hsym .slow true, hsym .slow false, fun v h hle => ?_,
    fun r g b h hle => ?_, fun h hle => ?_⟩
  · rw [exec_byte_ready h, hshort hle]
  · rw [exec_pixel_ready h, hshort hle]
  · rw [exec_latch_ready h, hshort hle]

/-- With no event the block waits, however long (R189, R211). -/
theorem run_nil {s : State} (h : s.env.inputs = []) (n : Nat) : core.run n s = .next s := by
  induction n with
  | zero => rfl
  | succ n ih => rw [run_succ (step_nil h), ih]

/-- Settles O31: the events that are there go by in IDLE, and after the last of them the block waits. -/
theorem withoutEventsTheBlockWaits : Obligations.WithoutEventsTheBlockWaits := by
  refine ⟨fun _ => step_nil, fun s n hm hf => ?_⟩
  obtain hn | hn := le_total n s.env.inputs.length
  · obtain ⟨off, h⟩ := run_idle (s.env.inputs.take n) hm (List.take_append_drop n _).symm
      fun i hi => hf i (List.mem_of_mem_take hi)
    rw [List.length_take_of_le hn] at h
    exact ⟨_, h, rfl, rfl, rfl⟩
  · obtain ⟨d, rfl⟩ := Nat.exists_eq_add_of_le hn
    obtain ⟨off, h⟩ := run_idle s.env.inputs hm (List.append_nil _).symm hf
    exact ⟨_, (run_add h d).trans (run_nil rfl d), rfl, rfl, rfl⟩

/-! ### One clock cycle -/

/-- The tick pair of a clock cycle, which sees the pixel port where it is a tick (R93, R188). -/
theorem exec_tick_present (w : PxWord) (t e : Bool) (s : State) :
    exec (.tick t e) (if t || e then present w s else s) =
      .next (match tickKindOf t e with
        | some k => tickStep s.build.profile k (present w s)
        | none => s) := by
  cases t <;> cases e <;> rfl

/-- The `start` signal of a clock cycle, whose first pull sees the pixel port (R91, R188). -/
theorem exec_start_present (w : PxWord) (start : Bool) (s : State) :
    exec (if start then .write else .nop) (if start then present w s else s) =
      .next (if start then startStep (present w s) else s) := by
  cases start <;> rfl

/-- The `Poll` that ends a clock cycle is the answer that the pixel port shows, in FETCH (R157, R188). -/
theorem exec_decodePxr_present (w : PxWord) (s : State) :
    exec (decodePxr w)
        (if s.blk.mode = .fetch then { present w s with env := { (present w s).env with source := [] } }
         else present w s) =
      .next (pollStep (present w s)) := by
  by_cases hm : s.blk.mode = .fetch
  · rw [if_pos hm, exec_decodePxr_fetch w (by exact hm), pollStep_fetch (by exact hm)]
    rfl
  · rw [if_neg hm, exec_eq_effect, effect_decodePxr, answerStep_other (by exact hm), pollStep_other (by exact hm)]

/-- Settles O32: the cycle is its three operations in turn, each as it is executed with the pixel port present. -/
theorem clockCycleOrdersItsInputs : Obligations.ClockCycleOrdersItsInputs := by
  intro s c rest hi
  rw [step_cycle hi]
  exact ⟨fun hrst => congrArg Host.Outcome.next (if_pos hrst),
    fun hrst => ⟨_, _, _, exec_tick_present .., exec_start_present .., exec_decodePxr_present ..,
      congrArg Host.Outcome.next (if_neg (by simp [hrst]))⟩⟩

end Machine
end Sys2Proof
end
